-- ==== Sys2Proof/Word.lean ====
section
/-! DEFINITION. The word types of IBISTC (spec/00_scope.md R11, R14): bytes, nibbles, 7-bit characters, code points
and the 32-bit numeric operand, and the sequences made of them. -/

namespace Sys2Proof

/-- A byte: 8 bits, bit 7 the most significant (R11). -/
abbrev Byte := BitVec 8

/-- A nibble: 4 bits (R11). -/
abbrev Nibble := BitVec 4

/-- A char7: a byte whose bit 7 is 0, held in its 7 low bits (R11, R14). -/
abbrev Char7 := BitVec 7

/-- A code point operand: an unsigned number of `CPW` = 21 bits (R10, R14). -/
abbrev CodePoint := BitVec 21

/-- A numeric operand: a two's-complement integer of `VALW` = 32 bits (R10, R14). -/
abbrev IntVal := BitVec 32

/-- A sequence of bytes (R14). -/
abbrev Bytes := List Byte

/-- A text: a sequence of code points, the document's "unicode string" (R14). -/
abbrev Text := List CodePoint

/-- A char7 as the byte that carries it on the wire: bit 7 is 0 (R11). -/
abbrev charByte (c : Char7) : Byte := c.setWidth 8

end Sys2Proof
end

