-- ==== Sys2Proof/Config.lean ====
section
/-! DEFINITION. The configuration of IBISTC: the record types of `DS_TABLE` (spec/30_encoding.md R62, R70), the OPEN
parameters as plain data (spec/00_scope.md R10, spec/92_eei_decisions.md), the spec's reference configuration
(spec/95_test_vectors.md), the answers TRANSPORT can give (spec/45_session.md R160, R161), and TRANSPORT's free answers,
which are opaque constants without a body. -/

namespace Sys2Proof

/-- Alignment of a text or raw field: `left` or `right` (R62). -/
inductive Align where
  | left
  | right
  deriving DecidableEq, Repr, Inhabited

/-- The four kinds of a FieldSpec (R62, conflict C5). -/
inductive FieldKind where
  | decimal
  | text
  | nibble
  | raw
  deriving DecidableEq, Repr, Inhabited

/-- A FieldSpec, the record of width, padChar, align and kind (R62). -/
structure FieldSpec where
  width : Nat
  padChar : Char7
  align : Align
  kind : FieldKind
  deriving DecidableEq, Repr, Inhabited

/-- The legal block sizes 4, 16, 20 and 24 (R10, R67). -/
inductive BlockSize where
  | b4
  | b16
  | b20
  | b24
  deriving DecidableEq, Repr, Inhabited

/-- A block size as a number of bytes. -/
def BlockSize.bytes : BlockSize → Nat
  | .b4 => 4
  | .b16 => 16
  | .b20 => 20
  | .b24 => 24

/-- The shape of a DS row with what its shape needs: `FIXED` and `LSA` a field list, `BLOCK` a block size, `LPCONN`
the stop id's one FieldSpec and a block size (R61, R70). -/
inductive Shape where
  | fixed (fields : List FieldSpec)
  | block (size : BlockSize)
  | lpconn (stopId : FieldSpec) (size : BlockSize)
  | lsa (inner : List FieldSpec)
  deriving DecidableEq, Repr, Inhabited

/-- The four kinds of a reply field (R70). -/
inductive ReplyKind where
  | status
  | raw
  | int
  | nibble
  deriving DecidableEq, Repr, Inhabited

/-- The name of a reply field. The three names that spec/30_encoding.md R71 and spec/95_test_vectors.md use have a
constructor of their own, every further name is `other`. -/
inductive FieldName where
  | status
  | id
  | version
  | other (key : Nat)
  deriving DecidableEq, Repr, Inhabited

/-- One reply field: name, offset, width, kind (R70). -/
structure ReplyField where
  name : FieldName
  offset : Nat
  width : Nat
  kind : ReplyKind
  deriving DecidableEq, Repr, Inhabited

/-- The reply record of a row: the expected length, trailer included, and the field list (R70). -/
structure ReplySpec where
  rlen : Nat
  rfields : List ReplyField
  deriving DecidableEq, Repr, Inhabited

/-- A row of `DS_TABLE` (R70). The field `pre` is the command prefix. -/
structure Row where
  shape : Shape
  pre : List Char7
  reply : Option ReplySpec
  deriving DecidableEq, Repr, Inhabited

/-- The five named status symbols of R14 and R143. -/
inductive StatusSymbol where
  | ok
  | displaying
  | searching
  | error
  | inputImplausible
  deriving DecidableEq, Repr, Inhabited

/-- What a connection composite holds outside its three operands: the bytes before the stop id, between the stop id and
the stop text, between the stop text and the change text, and after the change text (R68). -/
structure LpGaps where
  before : Bytes
  afterId : Bytes
  afterStop : Bytes
  afterChange : Bytes
  deriving DecidableEq, Repr, Inhabited

/-- The sub-causes of `EncodingError` (R172). -/
inductive EncodingSub where
  | decimalNegative
  | decimalOverflow
  | textTooLong
  | nibbleRange
  | blockCountOverflow
  | lengthOverflow
  deriving DecidableEq, Repr, Inhabited

/-- A fault of its own that an instantiation of `LPCONN_COMPOSE` raises (R130, "any fault `LPCONN_COMPOSE` raises"). Of the
causes of R170 these are the two about an operand that does not fit: R171 to R179 keep the others to conditions that no
composition can meet (log entry 12). -/
inductive LpFault where
  | encoding (sub : EncodingSub) (v : Int)
  | param (operand : Nat) (argument : Option Nat)
  deriving DecidableEq, Repr, Inhabited

/-- The OPEN parameter `LPCONN_COMPOSE` (R68, R131) as plain data: gaps that are the same for all operands, or the
`key`-th unknown platform function, which `Config.openCompose` leaves free. -/
inductive LpCompose where
  | gaps (g : LpGaps)
  | unknown (key : Nat)
  deriving DecidableEq, Repr, Inhabited

/-- The configuration store of IBISTC (R29, R40): the OPEN parameters of R10. The pinned rows of R71 and the pinned
entry of `STATUS_MAP` (R143) are not in it: every model has them, and the look-ups of Machine/Operands.lean add them.
`openRows` holds the rows of the data sets the document does not pin, by key; `openStatus` the entries of `STATUS_MAP`
besides 0x32; a capacity of `none` is unbounded. -/
structure Config where
  displayStatus : Row
  openRows : List (Nat × Row)
  openStatus : List (Byte × StatusSymbol)
  lpCompose : LpCompose
  bufCap : Option Nat
  rbufCap : Option Nat
  deriving DecidableEq, Repr, Inhabited

/-- The reference `DISPLAY_STATUS` row of R71 (general knowledge, entry G3 of spec/93_implementation_defined.md). -/
def Config.referenceDisplayStatus : Row where
  shape := .fixed [⟨1, 0x30, .right, .nibble⟩]
  pre := [0x61]
  reply := some ⟨4, [⟨.status, 1, 1, .status⟩]⟩

/-- The reference instantiation of `LPCONN_COMPOSE` (R131): each control byte in front of the operand it introduces. -/
def Config.referenceGaps : LpGaps where
  before := [0x03]
  afterId := [0x04]
  afterStop := [0x05]
  afterChange := []

/-- The five test-only rows of spec/95_test_vectors.md: T_LPCONN, T_LSA, T_BEACON, T_VERSTR, T_VERINT, in this order. -/
def Config.referenceRows : List (Nat × Row) :=
  [(0, ⟨.lpconn ⟨2, 0x30, .right, .decimal⟩ .b16, [0x61, 0x4C], none⟩),
   (1, ⟨.lsa [⟨1, 0x30, .right, .nibble⟩, ⟨1, 0x30, .right, .nibble⟩, ⟨4, 0x30, .right, .decimal⟩], [0x61, 0x58], none⟩),
   (2, ⟨.fixed [], [0x62], some ⟨11, [⟨.id, 1, 8, .nibble⟩]⟩⟩),
   (3, ⟨.fixed [], [0x76], some ⟨7, [⟨.version, 1, 4, .raw⟩]⟩⟩),
   (4, ⟨.fixed [], [0x76], some ⟨7, [⟨.version, 1, 4, .int⟩]⟩⟩)]

/-- The reference configuration, "the configuration used by all vectors" of spec/95_test_vectors.md. DESIGN CHOICE as a
value of the store at reset (log entry 1): no statement rests on it. -/
def Config.reference : Config where
  displayStatus := Config.referenceDisplayStatus
  openRows := Config.referenceRows
  openStatus := []
  lpCompose := .gaps Config.referenceGaps
  bufCap := none
  rbufCap := none

/-- TRANSPORT's two answers to `send` (R160). -/
inductive SendAnswer where
  | success
  | ioError
  deriving DecidableEq, Repr, Inhabited

/-- TRANSPORT's three answers to `receive` (R161). -/
inductive RecvAnswer where
  | bytes (bs : Bytes)
  | timeout
  | ioError
  deriving DecidableEq, Repr, Inhabited

/-- FREE VALUE: TRANSPORT's answer to a `send` for which no answer is listed (R33, U10). -/
opaque Config.freeSend : Nat → SendAnswer

/-- FREE VALUE: TRANSPORT's answer to a `receive` for which no answer is listed (R33, U10). -/
opaque Config.freeRecv : Nat → RecvAnswer

end Sys2Proof
end

