-- ==== Sys2Proof/Syntax.lean ====
section
/-! DEFINITION. The instructions of IBISTC: one constructor of `Instr` per row of spec/opcode_table.json, the typed
operands of the command port (spec/30_encoding.md R73) and the requests a host can make. -/

namespace Sys2Proof

/-- A DSIdentifier, "an opaque key naming one protocol data set" (R14): the four names of R71, and every further one by
a key of its own (log entry 11). -/
inductive DsId where
  | lineNumber
  | lpNextStopId
  | destText
  | displayStatus
  | openDs (key : Nat)
  deriving DecidableEq, Repr, Inhabited

/-- An `Operand` of a catalog entry: "an `Int`, a `Nat`, a `Text` or a `Bytes`" (R73). -/
inductive Operand where
  | int (v : IntVal)
  | nat (n : Nat)
  | text (t : Text)
  | bytes (b : Bytes)
  deriving DecidableEq, Repr, Inhabited

/-- The instructions. The first 27 are the operations of the command port (rows of format `CMD`, R73). The last ten are
the wire layouts (rows of format `FRAME` and `BODY`, R60 to R71), which are no operations of the port: they stand here
because the opcode table lists them, and their meaning is the bytes of the layout (log entry 6). -/
inductive Instr where
  | vdvEnc (n : Nibble)
  | vdvDec (c : Byte)
  | vdvEncw (k v : Nat)
  | vdvDecw (cs : Bytes)
  | scmChr (cp : CodePoint)
  | scmStr (t : Text)
  | frmCksum (body : Bytes)
  | frmFrame (body : Bytes)
  | frmStart
  | frmByte (b : Byte)
  | frmEnd
  | fldDec (w : Nat) (v : IntVal)
  | fldTxt (w : Nat) (pad : Char7) (align : Align) (t : Text)
  | fldRaw (w : Nat) (pad : Char7) (align : Align) (b : Bytes)
  | encFixed (ds : DsId) (params : List Operand)
  | encBlock (ds : DsId) (t : Text)
  | encLpconn (ds : DsId) (stopId : Operand) (stopText changeText : Text)
  | encLsa (ds : DsId) (params : List Operand)
  | rxStrip (raw : Bytes)
  | decStatus (c : Byte)
  | decBeacon (cs : Bytes)
  | decVerstr (b : Bytes)
  | decVerint (b : Bytes)
  | decReply (ds : DsId) (r : Option Bytes)
  | xferSend (ds : DsId) (params : List Operand)
  | xferSendraw (body : Bytes)
  | xferQuery (ds : DsId) (params : List Operand)
  | frameTrailer (c : Byte)
  | fieldDecimalDigit (d : Nibble)
  | fieldNibbleChar (n : Nibble)
  | bodyLineNumber (a b c : Nibble)
  | bodyLpNextStopId (h l : Nibble)
  | bodyDestTextHeader (n : Nibble)
  | bodyBlockCount (n : Nibble)
  | bodyLsaLength (m : Nibble)
  | bodyLpconnControl
  | bodyDisplayStatusReference (a : Nibble)
  deriving DecidableEq, Repr, Inhabited

/-- One typed operand value at the command port: "operands and results are typed values ... a model passes them as
values" (R73, U15). -/
inductive Arg where
  | nibble (n : Nibble)
  | byte (b : Byte)
  | char7 (c : Char7)
  | codePoint (cp : CodePoint)
  | align (a : Align)
  | ds (d : DsId)
  | value (x : Operand)
  | params (xs : List Operand)
  | absent
  deriving DecidableEq, Repr, Inhabited

/-- Where on the wire a layout row stands: the position, not the bits, tells the rows apart (R61, R75). -/
inductive WireSlot where
  | trailer
  | decimalDigit
  | nibbleChar
  | lineNumberBody
  | lpNextStopIdBody
  | destTextHeader
  | blockCount
  | lsaLength
  | lpconnControl
  | displayStatusBody
  deriving DecidableEq, Repr, Inhabited

/-- A host's request: an 8-bit opcode with typed operands at the command port (R73), or wire bytes to be read as the
layout of a named place on the wire (log entry 6). -/
inductive Request where
  | cmd (op : Byte) (args : List Arg)
  | wire (slot : WireSlot) (bs : Bytes)
  deriving DecidableEq, Repr, Inhabited

/-! ### Free values that depend on a request -/

/-- FREE VALUE: the operand index a `ParamFault` records where the spec does not state which operand it names (R170,
R179, log entry 8). It is a function of the configuration and the request, so that equal requests record equal indices
(R28, R32). -/
opaque Config.freeIndex : Config → Request → Nat

/-- FREE VALUE: the `key`-th unknown instantiation of `LPCONN_COMPOSE`, as a function of the row and the three operands: a
fault of its own, or the gaps it puts around the operands (R68, R130, R131, log entry 12). -/
opaque Config.openCompose : Nat → Row → Operand → Text → Text → Except LpFault LpGaps

end Sys2Proof
end

