-- ==== Sys2Proof/WellFormed.lean ====
section
/-! DEFINITION. Well-formed instructions. Every operand of the 27 operations is a typed value and any value of its type
may be presented (an operand outside its range is answered by the fault its rule names), so the only checks are those of
the wire layouts: a decimal digit is 0 to 9 (spec/30_encoding.md R63). -/

namespace Sys2Proof

/-- The field of a decimal digit byte: "each byte is `0011dddd` with `dddd` from 0 to 9" (R63). -/
def isDigit (d : Nibble) : Bool := decide (d ≤ 9)

/-- The instructions an encoding of the table admits. -/
def Instr.wellFormed : Instr → Bool
  | .fieldDecimalDigit d => isDigit d
  | .bodyLineNumber a b c => isDigit a && isDigit b && isDigit c
  | .vdvEnc _ => true
  | .vdvDec _ => true
  | .vdvEncw _ _ => true
  | .vdvDecw _ => true
  | .scmChr _ => true
  | .scmStr _ => true
  | .frmCksum _ => true
  | .frmFrame _ => true
  | .frmStart => true
  | .frmByte _ => true
  | .frmEnd => true
  | .fldDec _ _ => true
  | .fldTxt _ _ _ _ => true
  | .fldRaw _ _ _ _ => true
  | .encFixed _ _ => true
  | .encBlock _ _ => true
  | .encLpconn _ _ _ _ => true
  | .encLsa _ _ => true
  | .rxStrip _ => true
  | .decStatus _ => true
  | .decBeacon _ => true
  | .decVerstr _ => true
  | .decVerint _ => true
  | .decReply _ _ => true
  | .xferSend _ _ => true
  | .xferSendraw _ => true
  | .xferQuery _ _ => true
  | .frameTrailer _ => true
  | .fieldNibbleChar _ => true
  | .bodyLpNextStopId _ _ => true
  | .bodyDestTextHeader _ => true
  | .bodyBlockCount _ => true
  | .bodyLsaLength _ => true
  | .bodyLpconnControl => true
  | .bodyDisplayStatusReference _ => true

end Sys2Proof
end

