-- ==== Sys2Proof/Decode.lean ====
section
/-! DEFINITION. The command port's decoder and encoder (spec/30_encoding.md R73, R74), the decoder and encoder of the
wire layouts (R60, R63, R65, R67 to R69, R71), and the reading of an opcode-table word. -/

namespace Sys2Proof

/-- Why a request is not an instruction: a reserved opcode (R74, R175); operands that do not match the operation's,
with the index of the first operand of a wrong type where it is one operand's type that is wrong (R179); wire bytes that
do not have the layout of the place they are read at. -/
inductive Reject where
  | illegalCommand (op : Byte)
  | operands (op : Byte) (index : Option Nat)
  | noLayout (slot : WireSlot)
  deriving DecidableEq, Repr, Inhabited

/-! ### The nibble characters and decimal digits of the wire -/

/-- The nibble character of a nibble: `0x30 | n`, the bit pattern `0011nnnn` (R65, R80, R81). -/
def nibbleChar (n : Nibble) : Byte := 0x30 ||| n.setWidth 8

/-- The nibble a byte stands for: its low four bits where its high four are 3, none otherwise (R80, R82). -/
def charNibble (c : Byte) : Option Nibble :=
  if c.extractLsb' 4 4 = 0x3#4 then some (c.extractLsb' 0 4) else none

/-- The digit a byte stands for: `0011dddd` with `dddd` from 0 to 9 (R63). -/
def charDigit (c : Byte) : Option Nibble :=
  (charNibble c).filter isDigit

/-! ### The command port -/

/-- The types of the port's operands (R14, R73). -/
inductive ArgKind where
  | nibble
  | byte
  | char7
  | codePoint
  | align
  | ds
  | nat
  | int
  | text
  | bytes
  | operand
  | params
  | optBytes
  deriving DecidableEq, Repr, Inhabited

/-- An operand read as an `Int`: an `Int`, or a `Nat` that fits `VALW` bits of two's complement (R125, log entry 10). -/
def Arg.asInt : Arg → Option IntVal
  | .value (.int v) => some v
  | .value (.nat n) => if n < 2 ^ 31 then some (BitVec.ofNat 32 n) else none
  | _ => none

/-- Whether an operand value has a port type (R73). -/
def ArgKind.admits : ArgKind → Arg → Bool
  | .nibble, .nibble _ => true
  | .byte, .byte _ => true
  | .char7, .char7 _ => true
  | .codePoint, .codePoint _ => true
  | .align, .align _ => true
  | .ds, .ds _ => true
  | .nat, .value (.nat _) => true
  | .int, x => x.asInt.isSome
  | .text, .value (.text _) => true
  | .bytes, .value (.bytes _) => true
  | .operand, .value _ => true
  | .params, .params _ => true
  | .optBytes, .value (.bytes _) => true
  | .optBytes, .absent => true
  | _, _ => false

/-- The operand types of an opcode, none for a reserved opcode (the table of R73). -/
def signature (op : Byte) : Option (List ArgKind) :=
  match op.toNat with
  | 0x10 => some [.nibble]
  | 0x11 => some [.byte]
  | 0x12 => some [.nat, .nat]
  | 0x13 => some [.bytes]
  | 0x20 => some [.codePoint]
  | 0x21 => some [.text]
  | 0x30 => some [.bytes]
  | 0x31 => some [.bytes]
  | 0x32 => some []
  | 0x33 => some [.byte]
  | 0x34 => some []
  | 0x40 => some [.nat, .int]
  | 0x41 => some [.nat, .char7, .align, .text]
  | 0x43 => some [.nat, .char7, .align, .bytes]
  | 0x48 => some [.ds, .params]
  | 0x49 => some [.ds, .text]
  | 0x4A => some [.ds, .operand, .text, .text]
  | 0x4B => some [.ds, .params]
  | 0x50 => some [.bytes]
  | 0x51 => some [.byte]
  | 0x52 => some [.bytes]
  | 0x53 => some [.bytes]
  | 0x54 => some [.bytes]
  | 0x58 => some [.ds, .optBytes]
  | 0x60 => some [.ds, .params]
  | 0x61 => some [.bytes]
  | 0x62 => some [.ds, .params]
  | _ => none

/-- The index of the first operand whose type is not the one the operation takes; none where the operands differ in
number only (R179). -/
def firstMismatch : List ArgKind → List Arg → Nat → Option Nat
  | k :: ks, x :: xs, i => if k.admits x then firstMismatch ks xs (i + 1) else some i
  | [], [], _ => none
  | [], _ :: _, _ => none
  | _ :: _, [], _ => none

/-- The operation an opcode selects, with its operands; none unless the operands have the types of R73. -/
def buildCmd (op : Byte) (args : List Arg) : Option Instr :=
  match op.toNat, args with
  | 0x10, [.nibble n] => some (.vdvEnc n)
  | 0x11, [.byte c] => some (.vdvDec c)
  | 0x12, [.value (.nat k), .value (.nat v)] => some (.vdvEncw k v)
  | 0x13, [.value (.bytes cs)] => some (.vdvDecw cs)
  | 0x20, [.codePoint cp] => some (.scmChr cp)
  | 0x21, [.value (.text t)] => some (.scmStr t)
  | 0x30, [.value (.bytes b)] => some (.frmCksum b)
  | 0x31, [.value (.bytes b)] => some (.frmFrame b)
  | 0x32, [] => some .frmStart
  | 0x33, [.byte b] => some (.frmByte b)
  | 0x34, [] => some .frmEnd
  | 0x40, [.value (.nat w), x] => x.asInt.map (.fldDec w)
  | 0x41, [.value (.nat w), .char7 p, .align a, .value (.text t)] => some (.fldTxt w p a t)
  | 0x43, [.value (.nat w), .char7 p, .align a, .value (.bytes b)] => some (.fldRaw w p a b)
  | 0x48, [.ds d, .params xs] => some (.encFixed d xs)
  | 0x49, [.ds d, .value (.text t)] => some (.encBlock d t)
  | 0x4A, [.ds d, .value x, .value (.text t), .value (.text u)] => some (.encLpconn d x t u)
  | 0x4B, [.ds d, .params xs] => some (.encLsa d xs)
  | 0x50, [.value (.bytes b)] => some (.rxStrip b)
  | 0x51, [.byte c] => some (.decStatus c)
  | 0x52, [.value (.bytes b)] => some (.decBeacon b)
  | 0x53, [.value (.bytes b)] => some (.decVerstr b)
  | 0x54, [.value (.bytes b)] => some (.decVerint b)
  | 0x58, [.ds d, .value (.bytes b)] => some (.decReply d (some b))
  | 0x58, [.ds d, .absent] => some (.decReply d none)
  | 0x60, [.ds d, .params xs] => some (.xferSend d xs)
  | 0x61, [.value (.bytes b)] => some (.xferSendraw b)
  | 0x62, [.ds d, .params xs] => some (.xferQuery d xs)
  | _, _ => none

/-- Decode a request at the command port. A reserved opcode is `IllegalCommand` whatever its operands (R74, R181). -/
def decodeCmd (op : Byte) (args : List Arg) : Except Reject Instr :=
  match signature op with
  | none => .error (.illegalCommand op)
  | some sig =>
    match buildCmd op args with
    | some i => .ok i
    | none => .error (.operands op (firstMismatch sig args 0))

/-! ### The wire layouts -/

/-- The layout row that wire bytes have at a place, with its fields; none where the fixed bits do not match (R60, R63,
R65, R67 to R69, R71). -/
def buildWire (slot : WireSlot) (bs : Bytes) : Option Instr :=
  match slot, bs with
  | .trailer, [t, c] => if t = 0x0D then some (.frameTrailer c) else none
  | .decimalDigit, [d] => (charDigit d).map .fieldDecimalDigit
  | .nibbleChar, [n] => (charNibble n).map .fieldNibbleChar
  | .lineNumberBody, [p, x, y, z] =>
    if p = 0x6C then
      match charDigit x, charDigit y, charDigit z with
      | some a, some b, some c => some (.bodyLineNumber a b c)
      | _, _, _ => none
    else none
  | .lpNextStopIdBody, [p, q, x, y] =>
    if p = 0x78 ∧ q = 0x5A then
      match charNibble x, charNibble y with
      | some h, some l => some (.bodyLpNextStopId h l)
      | _, _ => none
    else none
  | .destTextHeader, [p, q, n] =>
    if p = 0x7A ∧ q = 0x41 then (charNibble n).map .bodyDestTextHeader else none
  | .blockCount, [n] => (charNibble n).map .bodyBlockCount
  | .lsaLength, [m] => (charNibble m).map .bodyLsaLength
  | .lpconnControl, [x, y, z] =>
    if x = 0x03 ∧ y = 0x04 ∧ z = 0x05 then some .bodyLpconnControl else none
  | .displayStatusBody, [p, a] =>
    if p = 0x61 then (charNibble a).map .bodyDisplayStatusReference else none
  | _, _ => none

/-- Decode a request of either kind. Total: every request is an instruction or is rejected by name (R204). -/
def decode : Request → Except Reject Instr
  | .cmd op args => decodeCmd op args
  | .wire slot bs =>
    match buildWire slot bs with
    | some i => .ok i
    | none => .error (.noLayout slot)

/-! ### The encoder -/

/-- The request that stands for an instruction: the opcode of R73 with the operands in the table's order, or the bytes
of the wire layout in wire order (R42). -/
def encode : Instr → Request
  | .vdvEnc n => .cmd 0x10 [.nibble n]
  | .vdvDec c => .cmd 0x11 [.byte c]
  | .vdvEncw k v => .cmd 0x12 [.value (.nat k), .value (.nat v)]
  | .vdvDecw cs => .cmd 0x13 [.value (.bytes cs)]
  | .scmChr cp => .cmd 0x20 [.codePoint cp]
  | .scmStr t => .cmd 0x21 [.value (.text t)]
  | .frmCksum b => .cmd 0x30 [.value (.bytes b)]
  | .frmFrame b => .cmd 0x31 [.value (.bytes b)]
  | .frmStart => .cmd 0x32 []
  | .frmByte b => .cmd 0x33 [.byte b]
  | .frmEnd => .cmd 0x34 []
  | .fldDec w v => .cmd 0x40 [.value (.nat w), .value (.int v)]
  | .fldTxt w p a t => .cmd 0x41 [.value (.nat w), .char7 p, .align a, .value (.text t)]
  | .fldRaw w p a b => .cmd 0x43 [.value (.nat w), .char7 p, .align a, .value (.bytes b)]
  | .encFixed d xs => .cmd 0x48 [.ds d, .params xs]
  | .encBlock d t => .cmd 0x49 [.ds d, .value (.text t)]
  | .encLpconn d x t u => .cmd 0x4A [.ds d, .value x, .value (.text t), .value (.text u)]
  | .encLsa d xs => .cmd 0x4B [.ds d, .params xs]
  | .rxStrip b => .cmd 0x50 [.value (.bytes b)]
  | .decStatus c => .cmd 0x51 [.byte c]
  | .decBeacon b => .cmd 0x52 [.value (.bytes b)]
  | .decVerstr b => .cmd 0x53 [.value (.bytes b)]
  | .decVerint b => .cmd 0x54 [.value (.bytes b)]
  | .decReply d (some b) => .cmd 0x58 [.ds d, .value (.bytes b)]
  | .decReply d none => .cmd 0x58 [.ds d, .absent]
  | .xferSend d xs => .cmd 0x60 [.ds d, .params xs]
  | .xferSendraw b => .cmd 0x61 [.value (.bytes b)]
  | .xferQuery d xs => .cmd 0x62 [.ds d, .params xs]
  | .frameTrailer c => .wire .trailer [0x0D, c]
  | .fieldDecimalDigit d => .wire .decimalDigit [nibbleChar d]
  | .fieldNibbleChar n => .wire .nibbleChar [nibbleChar n]
  | .bodyLineNumber a b c => .wire .lineNumberBody [0x6C, nibbleChar a, nibbleChar b, nibbleChar c]
  | .bodyLpNextStopId h l => .wire .lpNextStopIdBody [0x78, 0x5A, nibbleChar h, nibbleChar l]
  | .bodyDestTextHeader n => .wire .destTextHeader [0x7A, 0x41, nibbleChar n]
  | .bodyBlockCount n => .wire .blockCount [nibbleChar n]
  | .bodyLsaLength m => .wire .lsaLength [nibbleChar m]
  | .bodyLpconnControl => .wire .lpconnControl [0x03, 0x04, 0x05]
  | .bodyDisplayStatusReference a => .wire .displayStatusBody [0x61, nibbleChar a]

/-! ### Words of the opcode table -/

/-- The zero value of each operand type: what operand words of zeros stand for (log entry 5). -/
def ArgKind.zero : ArgKind → Arg
  | .nibble => .nibble 0
  | .byte => .byte 0
  | .char7 => .char7 0
  | .codePoint => .codePoint 0
  | .align => .align .left
  | .ds => .ds .lineNumber
  | .nat => .value (.nat 0)
  | .int => .value (.int 0)
  | .text => .value (.text [])
  | .bytes => .value (.bytes [])
  | .operand => .value (.nat 0)
  | .params => .params []
  | .optBytes => .absent

/-- The place on the wire whose layout a table word of several bytes can have, told by its first byte; the trailer's
place where no layout of the table begins so (its layout then does not match either). -/
def tableSlot : Bytes → WireSlot
  | 0x6C :: _ => .lineNumberBody
  | 0x78 :: _ => .lpNextStopIdBody
  | 0x7A :: _ => .destTextHeader
  | 0x61 :: _ => .displayStatusBody
  | 0x03 :: _ => .lpconnControl
  | _ => .trailer

/-- The bytes of a table word in wire order. The table reads a row's bits as one number whose most significant byte
goes on the wire first (R42, log entry 19). -/
def tableBytes (nbits w : Nat) : Bytes :=
  (List.range (nbits / 8)).map fun i => BitVec.ofNat 8 (w >>> ((nbits / 8 - 1 - i) * 8))

/-- The request a table word stands for: a word of 8 bits is an opcode at the command port, its operands zero; a longer
one is a wire layout (log entries 5, 6, 19). -/
def tableRequest (nbits w : Nat) : Request :=
  if nbits ≤ 8 then
    .cmd (BitVec.ofNat 8 w) (((signature (BitVec.ofNat 8 w)).getD []).map ArgKind.zero)
  else
    .wire (tableSlot (tableBytes nbits w)) (tableBytes nbits w)

/-- The instruction the decoder reads from an opcode-table word. -/
def decodeTableWord (nbits w : Nat) : Option Instr :=
  match decode (tableRequest nbits w) with
  | .ok i => some i
  | .error _ => none

end Sys2Proof
end

