-- ==== Sys2Proof/Machine/State.lean ====
section
/-! DEFINITION. The state of IBISTC (spec/10_state.md R20 to R25, R29, R40), the responses of its transactions
(spec/00_scope.md R14, spec/60_exceptions.md R170), the reasons a step can stop, and the state after reset (R190). -/

namespace Sys2Proof.Machine

/-! ### Responses -/

/-- A status: one of the five symbols, or a byte without an entry passed through (R14, R142). -/
inductive Status where
  | symbol (s : StatusSymbol)
  | raw (c : Byte)
  deriving DecidableEq, Repr

/-- A decoded reply value (R14). -/
inductive Value where
  | statusV (s : Status)
  | str (b : Bytes)
  | num (n : Nat)
  deriving DecidableEq, Repr

/-- A reply result: the explicit "no reply" marker, or the map from field names to values as a list of pairs (R14). -/
inductive ReplyResult where
  | noReply
  | fields (m : List (FieldName × Value))
  deriving DecidableEq, Repr

/-- The result of a transaction that ends in `Ok` (the result column of R73). -/
inductive Result where
  | unit
  | byte (b : Byte)
  | nibble (n : Nibble)
  | nat (n : Nat)
  | bytes (b : Bytes)
  | status (s : Status)
  | value (v : Value)
  | reply (r : ReplyResult)
  deriving DecidableEq, Repr

/-- The framer phase: `IDLE` = 0, `BODY` = 1 (R22). -/
inductive Phase where
  | idle
  | body
  deriving DecidableEq, Repr

/-- The two buffers (R40). -/
inductive Buffer where
  | buf
  | rbuf
  deriving DecidableEq, Repr

/-- The two calls of the transport contract (R160, R161, R174). -/
inductive Call where
  | send
  | receive
  deriving DecidableEq, Repr

/-- The sub-causes of `ParseError` (R173). -/
inductive ParseSub where
  | notANumber
  | shortReply
  deriving DecidableEq, Repr

/-- What a `ParseError` records besides its sub-cause: "the offending byte or length" (R170). -/
inductive ParseInfo where
  | byte (b : Byte)
  | length (n : Nat)
  deriving DecidableEq, Repr

/-- The faults of IBISTC with the info each records (R170 to R179). They are responses of a transaction, not stops of
the machine (R178, R183). `paramFault` records the operand index, none while the spec does not state which operand it
is, and the argument the pseudocode gives it, where it gives one (log entry 8). -/
inductive Cause where
  | invalidSymbol (c : Byte)
  | encodingError (sub : EncodingSub) (v : Int)
  | parseError (sub : ParseSub) (x : ParseInfo)
  | transportError (call : Call)
  | phaseFault (ph : Phase)
  | capacityFault (which : Buffer)
  | illegalCommand (op : Byte)
  | unknownDs (ds : DsId)
  | paramFault (operand : Option Nat) (argument : Option Nat)
  deriving DecidableEq, Repr

/-- The response of a transaction: a value or a fault, never both (R14, R73). -/
inductive Response where
  | ok (r : Result)
  | fault (c : Cause)
  deriving DecidableEq, Repr

/-! ### Stops -/

/-- The reasons the machine itself stops with a fault: there are none. Every fault of the spec is a response after which
the next transaction is accepted (R178, R183), so it is a next state; every other condition is defined (R204). Nothing
raises this type, which is safe. DEDUCED (log entry 16). -/
inductive Fault where
  deriving DecidableEq, Repr

/-- The reasons a step is refused. -/
inductive Refusal where
  /-- An instruction that has no meaning in this model. Raised by no arm of `exec` (every row has its meaning); the
  interface asks for the name. Safe. -/
  | notModelled (mnemonic : String)
  /-- Wire bytes that a request asks to be read as the layout of a place where no layout of the opcode table has these
  bytes. Raised by `step` on a `wire` request only, never on a command; the spec has no such request. DESIGN CHOICE (log
  entry 20). Safe. -/
  | noLayout (slot : WireSlot)
  deriving DecidableEq, Repr

/-! ### Memory -/

/-- A byte store: the bytes that differ from what an unlisted address reads as, by strictly rising address. -/
abbrev Memory := List Host.Cell

/-- What a buffer address that nothing has written reads as. DESIGN CHOICE (log entry 7): R191 leaves it open, "a model
may give them any value", and no operation reads such a byte. -/
def Memory.unlisted : Byte := 0x00

/-- The canonical form of a store. -/
abbrev Memory.wf (m : Memory) : Prop :=
  m.Pairwise (fun x y => x.1 < y.1) ∧ ∀ c ∈ m, c.2 ≠ Memory.unlisted

/-! ### State -/

/-- The state. The first seven fields are the spec's (R20 to R25); `cfg` is the configuration store (R29, R40), which the
spec makes a parameter of the step (log entry 1); the last five are the model's own: the host's requests not yet
executed and TRANSPORT's answers not yet given, both inputs of the step (R33, log entries 2 and 4), how many of
TRANSPORT's answers were free values (log entry 2), and the responses the host has received (R8, log entry 4). -/
structure State where
  /-- `CK`, the checksum accumulator (R21). -/
  ck : Byte
  /-- `PH`, the framer phase (R22). -/
  ph : Phase
  /-- `BUF`, the body buffer (R23). -/
  buf : Memory
  /-- `BLEN`, the number of valid bytes of `BUF` (R23). -/
  blen : Nat
  /-- `RBUF`, the reply buffer (R24). -/
  rbuf : Memory
  /-- `RLEN`, the number of valid bytes of `RBUF` (R24). -/
  rlen : Nat
  /-- `OUT`, the output log (R25). -/
  out : List Bytes
  /-- The configuration store (R10, R29, R40). -/
  cfg : Config
  /-- The host's requests not yet executed, the next one first. -/
  requests : List Request
  /-- TRANSPORT's answers to the coming `send` calls, the next one first. -/
  sendAnswers : List SendAnswer
  /-- TRANSPORT's answers to the coming `receive` calls, the next one first. -/
  recvAnswers : List RecvAnswer
  /-- How many of TRANSPORT's answers were free values: the place in the oracle's answers. No fault moves it (R28). -/
  drawn : Nat
  /-- The responses given so far, the oldest first. -/
  responses : List Response
  deriving DecidableEq, Repr

/-- The state after reset (R190). The buffers' contents, the configuration and the model's own fields are DESIGN
CHOICE (log entries 1, 2, 4, 7). -/
def State.reset : State where
  ck := 0x7F
  ph := .idle
  buf := []
  blen := 0
  rbuf := []
  rlen := 0
  out := []
  cfg := Config.reference
  requests := []
  sendAnswers := []
  recvAnswers := []
  drawn := 0
  responses := []

end Sys2Proof.Machine
end

