-- ==== Sys2Proof/Machine/Ops.lean ====
section
/-! DEFINITION. The named operations over IBISTC's state: the byte stores (spec/20_memory.md R40 to R45), staging a body
or a reply, folding the checksum (spec/42_framer.md R100, R101), `send` and `receive` (spec/45_session.md R160, R161),
the response of a transaction and fault entry (spec/60_exceptions.md R178), and the numeric codes (R170 to R173). -/

namespace Sys2Proof.Machine

/-! ### Byte stores -/

/-- The byte a store holds at an address. -/
def memRead : Memory → Nat → Byte
  | [], _ => Memory.unlisted
  | (k, v) :: rest, a => if k = a then v else memRead rest a

/-- A store with one byte written; writing what an unlisted address reads as removes the entry. -/
def memWrite : Memory → Nat → Byte → Memory
  | [], a, b => if b = Memory.unlisted then [] else [(a, b)]
  | (k, v) :: rest, a, b =>
    if a < k then
      if b = Memory.unlisted then (k, v) :: rest else (a, b) :: (k, v) :: rest
    else if a = k then
      if b = Memory.unlisted then rest else (a, b) :: rest
    else (k, v) :: memWrite rest a b

/-- `MemRead(space, addr, n)`: `n` bytes, lowest address first (R12). -/
def memReadN (m : Memory) (a : Nat) : Nat → Bytes
  | 0 => []
  | n + 1 => memRead m a :: memReadN m (a + 1) n

/-- `MemWrite(space, addr, n, v)` of a byte sequence, lowest address first (R12). -/
def memWriteN (m : Memory) (a : Nat) : Bytes → Memory
  | [] => m
  | b :: bs => memWriteN (memWrite m a b) (a + 1) bs

/-- Whether `n` bytes fit a buffer of a capacity; a capacity of none is unbounded (R48). -/
def fits (cap : Option Nat) (n : Nat) : Bool :=
  match cap with
  | none => true
  | some k => decide (n ≤ k)

/-! ### Constants -/

/-- `SEED`, the initial value of the checksum fold (R10, R100). -/
def seed : Byte := 0x7F

/-- `TERM`, the frame terminator (R10, R60). -/
def term : Byte := 0x0D

/-- `PADTEXT`, the fill byte of block text (R10, R67). -/
def padText : Byte := 0x20

/-! ### Numeric codes -/

/-- The fault code of the response port (the table of R170). -/
def faultCode : Cause → Byte
  | .invalidSymbol _ => 0x01
  | .encodingError _ _ => 0x02
  | .parseError _ _ => 0x03
  | .transportError _ => 0x04
  | .phaseFault _ => 0x05
  | .capacityFault _ => 0x06
  | .illegalCommand _ => 0x07
  | .unknownDs _ => 0x08
  | .paramFault _ _ => 0x09

/-- The response code: 0x00 for `Ok`, else the fault's code (R73, R170). -/
def responseCode : Response → Byte
  | .ok _ => 0x00
  | .fault c => faultCode c

/-- The sub-cause numbers of `EncodingError` (R172). -/
def encodingSubNumber : EncodingSub → Nat
  | .decimalNegative => 1
  | .decimalOverflow => 2
  | .textTooLong => 3
  | .nibbleRange => 4
  | .blockCountOverflow => 5
  | .lengthOverflow => 6

/-- The sub-cause numbers of `ParseError` (R173). -/
def parseSubNumber : ParseSub → Nat
  | .notANumber => 1
  | .shortReply => 2

/-- `PH` as its one bit: `IDLE` = 0, `BODY` = 1 (R22). -/
def phaseBit : Phase → BitVec 1
  | .idle => 0
  | .body => 1

/-! ### The end of a transaction -/

/-- End a transaction with `Ok` (R12, R73). -/
def respond (r : Result) (s : State) : State :=
  { s with responses := s.responses ++ [.ok r] }

/-- A fault with its whole info: an operand index the spec does not state is the free value given (log entry 8). -/
def settle (free : Nat) : Cause → Cause
  | .paramFault none x => .paramFault (some free) x
  | c => c

/-- The fault of a request with its whole info: the free index is that of the configuration and the request alone, so
the same request records the same index every time (R28, R32, log entry 8). -/
def settleFor (cfg : Config) (r : Request) (c : Cause) : Cause := settle (Config.freeIndex cfg r) c

/-- Fault entry (R178), the one operation that ends a transaction with a fault: the response is the fault and carries no
result; `BLEN` and `RLEN` are 0; `CK` is the seed again where the operation had begun folding; `PH`, `OUT` and the rest
are kept. Nothing is saved and control goes nowhere: there is no return operation (R183), and the next transaction
starts from this state like any other. -/
def raise (folded : Bool) (c : Cause) (s : State) : State :=
  { s with
    blen := 0
    rlen := 0
    ck := if folded then seed else s.ck
    responses := s.responses ++ [.fault c] }

/-- Fault entry of an instruction whose fault may have an operand index the spec does not state. -/
def raiseFor (i : Instr) (folded : Bool) (c : Cause) (s : State) : State :=
  raise folded (settleFor s.cfg (encode i) c) s

/-- End a transaction with what a unit that folds nothing computed: its result, or the fault it raises. -/
def finish {α : Type} (wrap : α → Result) (r : Except Cause α) (s : State) : State :=
  match r with
  | .ok v => respond (wrap v) s
  | .error c => raise false c s

/-! ### Staging and framing -/

/-- Write a whole body into `BUF` and set `BLEN` (R23, R101). -/
def stageBody (body : Bytes) (s : State) : State :=
  { s with buf := memWriteN s.buf 0 body, blen := body.length }

/-- `BLEN <- 0`: the end of a transaction that staged a body (R23, R101). -/
def clearBody (s : State) : State :=
  { s with blen := 0 }

/-- Start `CK` at the seed and fold the staged body in index order (R100, R101). -/
def foldBody (s : State) : State :=
  { s with ck := (memReadN s.buf 0 s.blen).foldl (fun c b => c ^^^ b) seed }

/-- Fold the terminator (R100, R101). -/
def foldTerm (s : State) : State :=
  { s with ck := s.ck ^^^ term }

/-- `CK <- 0x7F` after the checksum has been used (R101). -/
def clearCk (s : State) : State :=
  { s with ck := seed }

/-- Stage a body and fold it and the terminator: the state in which `CK` holds the body's checksum (R101). -/
def fold (body : Bytes) (s : State) : State :=
  foldTerm (foldBody (stageBody body s))

/-- The framed telegram of the staged body: its bytes, the terminator, `CK` (R60, R101). -/
def framed (s : State) : Bytes :=
  memReadN s.buf 0 s.blen ++ [term, s.ck]

/-- Write a raw reply into `RBUF` and set `RLEN` (R24, R152). -/
def stageReply (bs : Bytes) (s : State) : State :=
  { s with rbuf := memWriteN s.rbuf 0 bs, rlen := bs.length }

/-- `RLEN <- 0` (R24, R152). -/
def clearReply (s : State) : State :=
  { s with rlen := 0 }

/-! ### TRANSPORT -/

/-- `send(bs)`: append to `OUT` and take TRANSPORT's next answer; an answer that is not listed is a free value (R160,
R33, log entry 2). -/
def send (bs : Bytes) (s : State) : State × SendAnswer :=
  match s.sendAnswers with
  | a :: rest => ({ s with out := s.out ++ [bs], sendAnswers := rest }, a)
  | [] => ({ s with out := s.out ++ [bs], drawn := s.drawn + 1 }, Config.freeSend s.drawn)

/-- An answer to `receive(n)` has at most `n` bytes (R161): of a longer list the first `n` are the answer (log entry
3). -/
def clipAnswer (n : Nat) : RecvAnswer → RecvAnswer
  | .bytes bs => .bytes (bs.take n)
  | .timeout => .timeout
  | .ioError => .ioError

/-- `receive(n)`: take TRANSPORT's next answer (R161, R33, log entries 2 and 3). -/
def receive (n : Nat) (s : State) : State × RecvAnswer :=
  match s.recvAnswers with
  | a :: rest => ({ s with recvAnswers := rest }, clipAnswer n a)
  | [] => ({ s with drawn := s.drawn + 1 }, clipAnswer n (Config.freeRecv s.drawn))

/-- The transmit path of the transfer operations: stage, fold, hand the framed telegram to TRANSPORT in one `send`, and
restore `CK` and `BLEN` (R109, R162 to R164). -/
def transmit (body : Bytes) (s : State) : State × SendAnswer :=
  let folded := fold body s
  let sent := send (framed folded) folded
  (clearBody (clearCk sent.1), sent.2)

end Sys2Proof.Machine
end

