-- ==== Sys2Proof/Machine/Flags.lean ====
section
/-! DEFINITION. IBISTC has no status flags and no condition codes (spec/10_state.md R28). The one status bit an operation
tests is the framer phase `PH` (R22): this file holds the two tests and which opcodes make them
(spec/60_exceptions.md R176, R181). -/

namespace Sys2Proof.Machine

/-- `if PH != IDLE then raise PhaseFault`: end in the fault while a streamed frame is open, else go on (R176). -/
def whenIdle (s : State) (k : State → State) : State :=
  match s.ph with
  | .idle => k s
  | .body => raise false (.phaseFault .body) s

/-- `if PH != BODY then raise PhaseFault`: end in the fault while no streamed frame is open, else go on (R176). -/
def whenBody (s : State) (k : State → State) : State :=
  match s.ph with
  | .body => k s
  | .idle => raise false (.phaseFault .idle) s

/-- The phase an operation must find, by opcode; none for an operation allowed in either (R22, R176). -/
def neededPhase (op : Byte) : Option Phase :=
  match op.toNat with
  | 0x30 => some .idle
  | 0x31 => some .idle
  | 0x32 => some .idle
  | 0x33 => some .body
  | 0x34 => some .body
  | 0x60 => some .idle
  | 0x61 => some .idle
  | 0x62 => some .idle
  | _ => none

end Sys2Proof.Machine
end

