-- ==== Sys2Proof/Machine/Operands.lean ====
section
/-! DEFINITION. The operand and field forms, all pure functions: the nibble codec (spec/40_vdvhex.md R81 to R84), the
special-character mapper (spec/41_special_char.md R90 to R92), the field formatters and `lay_field`
(spec/43_body_encoder.md R121 to R125), the reply field decoders (spec/44_reply_decoder.md R141 to R149), and the
look-ups in the configuration (R70, R71, R143). -/

namespace Sys2Proof.Machine

/-! ### Nibble characters -/

/-- `dec(c)` (R82): the whole byte is compared, so a byte with bit 7 set faults. -/
def dec (c : Byte) : Except Cause Nibble :=
  match charNibble c with
  | some n => .ok n
  | none => .error (.invalidSymbol c)

/-- The `k` nibble characters of a number, most significant first (R65, R83). -/
def nibbleChars (k v : Nat) : Bytes :=
  (List.range k).map fun i => nibbleChar (BitVec.ofNat 4 (v >>> ((k - 1 - i) * 4)))

/-- `encw(k, v)` with its checks (R83). -/
def encw (k v : Nat) : Except Cause Bytes :=
  if k < 1 ∨ 8 < k then .error (.paramFault (some 0) (some k))
  else if 16 ^ k ≤ v then .error (.encodingError .nibbleRange v)
  else .ok (nibbleChars k v)

/-- The fold of `decw` over the bytes that are left: each nibble is or-ed in at the position its distance from the end
gives, and the first byte outside the alphabet faults (R84). -/
def decwFrom : Bytes → BitVec 32 → Except Cause Nat
  | [], v => .ok v.toNat
  | c :: cs, v =>
    match dec c with
    | .ok n => decwFrom cs (v ||| (n.setWidth 32 <<< (cs.length * 4)))
    | .error f => .error f

/-- `decw(cs)` with its checks (R84). -/
def decw (cs : Bytes) : Except Cause Nat :=
  if cs.length < 1 ∨ 8 < cs.length then .error (.paramFault (some 0) (some cs.length))
  else decwFrom cs 0

/-! ### Special characters -/

/-- `SUBST`, the seven rows of the substitution table (R90). The numbers are R13's, PRESUMED there (log entry 15). -/
def subst : List (CodePoint × Byte) :=
  [(0xE4, 0x7B), (0xF6, 0x7C), (0xFC, 0x7D), (0xDF, 0x7E), (0xC4, 0x5B), (0xD6, 0x5C), (0xDC, 0x5D)]

/-- `PLACEHOLDER`, the byte of an unmapped non-ASCII character (R10, R91). -/
def placeholder : Byte := 0x3F

/-- `scm(cp)`: the table first, then ASCII unchanged, else the placeholder (R91). -/
def scm (cp : CodePoint) : Byte :=
  match subst.lookup cp with
  | some b => b
  | none => if cp ≤ 0x7F then (cp.extractLsb' 0 7).setWidth 8 else placeholder

/-- `sanitize(t)`: one byte per code point (R92). -/
def sanitize (t : Text) : Bytes := t.map scm

/-! ### Field formatters -/

/-- The `w` digits of a number, the highest power of ten first (R63, R121). -/
def decimalChars (w v : Nat) : Bytes :=
  (List.range w).map fun i => 0x30 + BitVec.ofNat 8 (v / 10 ^ (w - 1 - i) % 10)

/-- `fdec(w, v)` with its checks, on mathematical integers (R121). -/
def fdec (w : Nat) (v : Int) : Except Cause Bytes :=
  if w < 1 then .error (.paramFault (some 0) (some w))
  else if v < 0 then .error (.encodingError .decimalNegative v)
  else if (10 : Int) ^ w ≤ v then .error (.encodingError .decimalOverflow v)
  else .ok (decimalChars w v.toNat)

/-- Pad bytes to a field's width on the side the alignment leaves (R64, R66). -/
def padTo (w : Nat) (pad : Char7) (align : Align) (b : Bytes) : Bytes :=
  match align with
  | .left => b ++ List.replicate (w - b.length) (charByte pad)
  | .right => List.replicate (w - b.length) (charByte pad) ++ b

/-- `fraw(w, pad, align, b)` with its checks; the mapper is not applied (R66, R124). -/
def fraw (w : Nat) (pad : Char7) (align : Align) (b : Bytes) : Except Cause Bytes :=
  if w < 1 then .error (.paramFault (some 0) (some w))
  else if w < b.length then .error (.encodingError .textTooLong b.length)
  else .ok (padTo w pad align b)

/-- `ftxt(w, pad, align, t)`: the mapper, then as `fraw` (R64, R122). -/
def ftxt (w : Nat) (pad : Char7) (align : Align) (t : Text) : Except Cause Bytes :=
  fraw w pad align (sanitize t)

/-- A fault of a field formatter called for a row's field: the formatter's own operand is no operand of the operation,
so which index is recorded is not stated (log entry 8). -/
def unindexed {α : Type} : Except Cause α → Except Cause α
  | .error (.paramFault _ x) => .error (.paramFault none x)
  | r => r

/-- `ParamFault` without an argument in the pseudocode: the index it records is not stated (log entry 8). -/
def paramFault {α : Type} : Except Cause α := .error (.paramFault none none)

/-- `lay_field(spec, x)`: the operand's type must match the field's kind; a `Nat` that fits `VALW` bits is taken where an
`Int` is needed (R125, log entry 10). -/
def layField (f : FieldSpec) (x : Operand) : Except Cause Bytes :=
  match f.kind, x with
  | .decimal, .int v => unindexed (fdec f.width v.toInt)
  | .decimal, .nat n => if n < 2 ^ 31 then unindexed (fdec f.width n) else paramFault
  | .text, .text t => unindexed (ftxt f.width f.padChar f.align t)
  | .nibble, .nat n => unindexed (encw f.width n)
  | .raw, .bytes b => unindexed (fraw f.width f.padChar f.align b)
  | _, _ => paramFault

/-- Lay the operands into a field list, in list order; the first fault is the response (R126, R132, R133). The callers
check the number of operands first. -/
def layFields : List FieldSpec → List Operand → Except Cause Bytes
  | [], _ => .ok []
  | _ :: _, [] => paramFault
  | f :: fs, x :: xs =>
    match layField f x with
    | .error c => .error c
    | .ok b =>
      match layFields fs xs with
      | .error c => .error c
      | .ok bs => .ok (b ++ bs)

/-- `cdiv(a, b)`, division rounding up (R11). -/
def cdiv (a b : Nat) : Nat := (a + b - 1) / b

/-! ### Configuration look-ups -/

/-- The pinned row `LINE_NUMBER` (R71), send-only as R162 issues it. -/
def rowLineNumber : Row := ⟨.fixed [⟨3, 0x30, .right, .decimal⟩], [0x6C], none⟩

/-- The pinned row `LP_NEXT_STOP_ID` (R71). DESIGN CHOICE: that it has no reply entry, so that it is a send-only data
set. R71 gives its encoder only and no source says whether the data set has a reply (N6, log entry 22). -/
def rowLpNextStopId : Row := ⟨.fixed [⟨2, 0x30, .right, .nibble⟩], [0x78, 0x5A], none⟩

/-- The pinned row `DEST_TEXT` (R71), send-only as spec/95_test_vectors.md issues it. -/
def rowDestText : Row := ⟨.block .b16, [0x7A, 0x41], none⟩

/-- What R70 asks of one reply field of a reply of `rlen` bytes: it lies in the payload, and a status field has width 1,
a nibble field a width from 1 to 8 (R149). -/
def replyFieldOk (rlen : Nat) (f : ReplyField) : Bool :=
  decide (f.offset + f.width ≤ rlen - 2) &&
    match f.kind with
    | .status => f.width == 1
    | .nibble => decide (1 ≤ f.width) && decide (f.width ≤ 8)
    | .raw => true
    | .int => true

/-- What R70 asks of a row: a non-empty prefix, and a reply of at least two bytes whose fields lie in its payload. -/
def rowOk (r : Row) : Bool :=
  !r.pre.isEmpty &&
    match r.reply with
    | none => true
    | some p => decide (2 ≤ p.rlen) && p.rfields.all (replyFieldOk p.rlen)

/-- What R71 fixes of `DISPLAY_STATUS`: it has a reply, which holds a field named `status` of kind `status`. -/
def displayStatusOk (r : Row) : Bool :=
  rowOk r &&
    match r.reply with
    | none => false
    | some p => (p.rfields.filter fun f => f.kind = .status).map (fun f => f.name) == [.status]

/-- `DS_TABLE[ds]`, none where `ds` is no key: the pinned rows, the `DISPLAY_STATUS` row and the OPEN rows of the
configuration. What does not meet the constraints of R70 and R71 is no row of the table (log entry 13). -/
def dsRow (cfg : Config) : DsId → Option Row
  | .lineNumber => some rowLineNumber
  | .lpNextStopId => some rowLpNextStopId
  | .destText => some rowDestText
  | .displayStatus =>
    some (if displayStatusOk cfg.displayStatus then cfg.displayStatus else Config.referenceDisplayStatus)
  | .openDs k => (cfg.openRows.lookup k).filter rowOk

/-- A row's command prefix as bytes (R61, R70). -/
def prefixBytes (r : Row) : Bytes := r.pre.map charByte

/-- `status(c)`: the pinned entry of `STATUS_MAP`, then its OPEN entries, else the byte passed through (R142, R143). -/
def statusOf (cfg : Config) (c : Byte) : Status :=
  if c = 0x32 then .symbol .searching
  else
    match cfg.openStatus.lookup c with
    | some sym => .symbol sym
    | none => .raw c

/-- Whether a byte is one of the three control bytes `LPCTRL` (R10, R68). -/
def isControl (b : Byte) : Bool := b = 0x03 || b = 0x04 || b = 0x05

/-- The constraint on `LPCONN_COMPOSE`: outside the operands each control byte stands exactly once, in order (R68), and
every byte is a char7, as every byte of a body built without `raw` fields is (R135). -/
def gapsOk (g : LpGaps) : Bool :=
  (g.before ++ g.afterId ++ g.afterStop ++ g.afterChange).filter isControl == [0x03, 0x04, 0x05] &&
    (g.before ++ g.afterId ++ g.afterStop ++ g.afterChange).all fun b => decide (b ≤ 0x7F)

/-- The fault an instantiation of `LPCONN_COMPOSE` raises, as a cause of R170. -/
def lpFaultCause : LpFault → Cause
  | .encoding sub v => .encodingError sub v
  | .param i x => .paramFault (some i) x

/-- What the configuration's `LPCONN_COMPOSE` answers for the operands: a fault of its own, or the gaps around them. Gaps
that do not meet the constraint are no instantiation, and the reference ones stand for them (log entry 12). -/
def lpGaps (cfg : Config) (row : Row) (stopId : Operand) (stopText changeText : Text) : Except Cause LpGaps :=
  match cfg.lpCompose with
  | .gaps g => .ok (if gapsOk g then g else Config.referenceGaps)
  | .unknown k =>
    match Config.openCompose k row stopId stopText changeText with
    | .ok g => .ok (if gapsOk g then g else Config.referenceGaps)
    | .error f => .error (lpFaultCause f)

/-- A `ParamFault` about the operand of an operation itself records that operand's index (R170, R179, log entry 8). A
width that does not fit is a fault of the row's field, not of the operand, and keeps its open index. -/
def atOperand (i : Nat) : Cause → Cause
  | .paramFault none none => .paramFault (some i) none
  | c => c

/-- `LPCONN_COMPOSE(row, stopId, stopText, changeText)`: the operands in order with the control bytes around them; the
stop id is laid out by the row's one FieldSpec and the texts pass the mapper (R68, R94, R131). The stop id is operand 1
of `ENC.LPCONN`, and its fault comes before the composition's own (R133, log entry 12). -/
def composeLp (cfg : Config) (row : Row) (spec : FieldSpec) (stopId : Operand) (stopText changeText : Text) :
    Except Cause Bytes :=
  match layField spec stopId with
  | .error c => .error (atOperand 1 c)
  | .ok idBytes =>
    match lpGaps cfg row stopId stopText changeText with
    | .error c => .error c
    | .ok g =>
      .ok (g.before ++ idBytes ++ g.afterId ++ sanitize stopText ++ g.afterStop ++ sanitize changeText ++ g.afterChange)

/-! ### Reply fields -/

/-- `strip(raw)`: drop the last two bytes unseen (R141). -/
def strip (raw : Bytes) : Except Cause Bytes :=
  if raw.length < 2 then .error (.parseError .shortReply (.length raw.length))
  else .ok (raw.take (raw.length - 2))

/-- The loop of `parse_int` over the bytes that are left (R147). -/
def parseDigits : Bytes → Nat → Except Cause Nat
  | [], v => .ok v
  | c :: cs, v =>
    if c < 0x30 ∨ 0x39 < c then .error (.parseError .notANumber (.byte c))
    else parseDigits cs (v * 10 + (c - 0x30).toNat)

/-- `parse_int(s)`: one or more ASCII digits, most significant first (R147). The info of the empty slice is log entry
9. -/
def parseInt (b : Bytes) : Except Cause Nat :=
  match b with
  | [] => .error (.parseError .notANumber (.length 0))
  | c :: cs => parseDigits (c :: cs) 0

/-- `dec_field(f, payload)` (R149). A status field has width 1 and lies in the payload (`rowOk`), so its slice has a
first byte. -/
def decField (cfg : Config) (f : ReplyField) (payload : Bytes) : Except Cause Value :=
  let slice := (payload.drop f.offset).take f.width
  match f.kind with
  | .status => .ok (.statusV (statusOf cfg (slice.headD 0)))
  | .raw => .ok (.str slice)
  | .int => (parseInt slice).map .num
  | .nibble => (unindexed (decw slice)).map .num

/-- `m[name] = v` on a map held as a list of pairs: an earlier value of the name is replaced (R152, log entry 14). -/
def setField (name : FieldName) (v : Value) : List (FieldName × Value) → List (FieldName × Value)
  | [] => [(name, v)]
  | (n, x) :: rest => if n = name then (n, v) :: rest else (n, x) :: setField name v rest

/-- Decode the fields of a reply in list order into a map; the first fault is the response and the map is discarded
(R140, R152). -/
def decFields (cfg : Config) : List ReplyField → Bytes → List (FieldName × Value) → Except Cause ReplyResult
  | [], _, m => .ok (.fields m)
  | f :: fs, payload, m =>
    match decField cfg f payload with
    | .error c => .error c
    | .ok v => decFields cfg fs payload (setField f.name v m)

end Sys2Proof.Machine
end

