-- ==== Sys2Proof/Machine/BodyEnc.lean ====
section
/-! DEFINITION. The operations of BODYENC, the body encoder (spec/43_body_encoder.md R120 to R135): the field formatters
and the four shape encoders, and `encode_body`, which the transfer operations call (R134). -/

namespace Sys2Proof.Machine

/-! ### Field formatters -/

/-- `FLD.DEC w, v` (R121). -/
def execFldDec (w : Nat) (v : IntVal) (s : State) : Host.Outcome State Fault Refusal :=
  .next (finish .bytes (fdec w v.toInt) s)

/-- `FLD.TXT w, pad, align, t` (R122). -/
def execFldTxt (w : Nat) (pad : Char7) (align : Align) (t : Text) (s : State) : Host.Outcome State Fault Refusal :=
  .next (finish .bytes (ftxt w pad align t) s)

/-- `FLD.RAW w, pad, align, b` (R124). -/
def execFldRaw (w : Nat) (pad : Char7) (align : Align) (b : Bytes) (s : State) : Host.Outcome State Fault Refusal :=
  .next (finish .bytes (fraw w pad align b) s)

/-! ### Bodies -/

/-- The last check of every encoder: a body longer than `BUFCAP` is a `CapacityFault` (R48, R177). -/
def capBody (cfg : Config) (body : Bytes) : Except Cause Bytes :=
  if fits cfg.bufCap body.length then .ok body else .error (.capacityFault .buf)

/-- A body that counts its text in blocks of `size` bytes: prefix, count nibble, text, spaces to the end of the last
block; more than 15 blocks fault (R67, R68, R128, R130). -/
def blockBody (cfg : Config) (row : Row) (size : Nat) (text : Bytes) (count : Nat) : Except Cause Bytes :=
  if 15 < count then .error (.encodingError .blockCountOverflow count)
  else
    capBody cfg (prefixBytes row ++ [nibbleChar (BitVec.ofNat 4 count)] ++ text ++
      List.replicate (count * size - text.length) padText)

/-- The body of `ENC.FIXED ds, params` (R126). -/
def bodyFixed (cfg : Config) (ds : DsId) (params : List Operand) : Except Cause Bytes :=
  match dsRow cfg ds with
  | none => .error (.unknownDs ds)
  | some row =>
    match row.shape with
    | .fixed fields =>
      if params.length ≠ fields.length then paramFault
      else
        match layFields fields params with
        | .error c => .error c
        | .ok bs => capBody cfg (prefixBytes row ++ bs)
    | .block _ => paramFault
    | .lpconn _ _ => paramFault
    | .lsa _ => paramFault

/-- The body of `ENC.BLOCK ds, t` (R128). -/
def bodyBlock (cfg : Config) (ds : DsId) (t : Text) : Except Cause Bytes :=
  match dsRow cfg ds with
  | none => .error (.unknownDs ds)
  | some row =>
    match row.shape with
    | .block size => blockBody cfg row size.bytes (sanitize t) (cdiv (sanitize t).length size.bytes)
    | .fixed _ => paramFault
    | .lpconn _ _ => paramFault
    | .lsa _ => paramFault

/-- The block count of a composite by `divmod`: the quotient, and one more where there is a remainder (R68, R130). -/
def divmodCount (n size : Nat) : Nat :=
  if n % size = 0 then n / size else n / size + 1

/-- The body of `ENC.LPCONN ds, stopId, stopText, changeText` (R130). -/
def bodyLpconn (cfg : Config) (ds : DsId) (stopId : Operand) (stopText changeText : Text) : Except Cause Bytes :=
  match dsRow cfg ds with
  | none => .error (.unknownDs ds)
  | some row =>
    match row.shape with
    | .lpconn spec size =>
      match composeLp cfg row spec stopId stopText changeText with
      | .error c => .error c
      | .ok c => blockBody cfg row size.bytes c (divmodCount c.length size.bytes)
    | .fixed _ => paramFault
    | .block _ => paramFault
    | .lsa _ => paramFault

/-- The body of `ENC.LSA ds, params` (R132). -/
def bodyLsa (cfg : Config) (ds : DsId) (params : List Operand) : Except Cause Bytes :=
  match dsRow cfg ds with
  | none => .error (.unknownDs ds)
  | some row =>
    match row.shape with
    | .lsa fields =>
      if params.length ≠ fields.length then paramFault
      else
        match layFields fields params with
        | .error c => .error c
        | .ok inner =>
          if 15 < cdiv inner.length 2 then .error (.encodingError .lengthOverflow (cdiv inner.length 2))
          else capBody cfg (prefixBytes row ++ [nibbleChar (BitVec.ofNat 4 (cdiv inner.length 2))] ++ inner)
    | .fixed _ => paramFault
    | .block _ => paramFault
    | .lpconn _ _ => paramFault

/-- `encode_body(ds, params)`: the encoder of the row's shape, the operand list spread over its operands (R134). -/
def encodeBody (cfg : Config) (ds : DsId) (params : List Operand) : Except Cause Bytes :=
  match dsRow cfg ds with
  | none => .error (.unknownDs ds)
  | some row =>
    match row.shape with
    | .fixed _ => bodyFixed cfg ds params
    | .block _ =>
      match params with
      | [.text t] => bodyBlock cfg ds t
      | _ => paramFault
    | .lpconn _ _ =>
      match params with
      | [stopId, .text stopText, .text changeText] => bodyLpconn cfg ds stopId stopText changeText
      | _ => paramFault
    | .lsa _ => bodyLsa cfg ds params

/-- End a transaction with a body: it was staged in `BUF`, and `BLEN` is 0 again (R120, R126). That a fault leaves `BUF`
as it was is DESIGN CHOICE (log entry 17). -/
def finishBody (i : Instr) (r : Except Cause Bytes) (s : State) : State :=
  match r with
  | .ok body => respond (.bytes body) (clearBody (stageBody body s))
  | .error c => raiseFor i false c s

/-- `ENC.FIXED ds, params` (R126). -/
def execEncFixed (ds : DsId) (params : List Operand) (s : State) : Host.Outcome State Fault Refusal :=
  .next (finishBody (.encFixed ds params) (bodyFixed s.cfg ds params) s)

/-- `ENC.BLOCK ds, t` (R128). -/
def execEncBlock (ds : DsId) (t : Text) (s : State) : Host.Outcome State Fault Refusal :=
  .next (finishBody (.encBlock ds t) (bodyBlock s.cfg ds t) s)

/-- `ENC.LPCONN ds, stopId, stopText, changeText` (R130). -/
def execEncLpconn (ds : DsId) (stopId : Operand) (stopText changeText : Text) (s : State) :
    Host.Outcome State Fault Refusal :=
  .next (finishBody (.encLpconn ds stopId stopText changeText) (bodyLpconn s.cfg ds stopId stopText changeText) s)

/-- `ENC.LSA ds, params` (R132). -/
def execEncLsa (ds : DsId) (params : List Operand) (s : State) : Host.Outcome State Fault Refusal :=
  .next (finishBody (.encLsa ds params) (bodyLsa s.cfg ds params) s)

end Sys2Proof.Machine
end

