-- ==== Sys2Proof/Machine/Framer.lean ====
section
/-! DEFINITION. The operations of FRAMER (spec/42_framer.md R101 to R105), the only unit with registers. -/

namespace Sys2Proof.Machine

/-- The common course of the two whole-body operations: the phase, the capacity, then stage and fold; the result is read
off the folded state, and `CK` and `BLEN` return to their quiescent values (R101, R105). -/
def foldWhole (body : Bytes) (result : State → Result) (s : State) : State :=
  whenIdle s fun s =>
    if fits s.cfg.bufCap body.length then
      let folded := fold body s
      respond (result folded) (clearBody (clearCk folded))
    else raise false (.capacityFault .buf) s

/-- `FRM.CKSUM body` (R105): the checksum byte alone. -/
def execFrmCksum (body : Bytes) (s : State) : Host.Outcome State Fault Refusal :=
  .next (foldWhole body (fun t => .byte t.ck) s)

/-- `FRM.FRAME body` (R101): the framed telegram, returned and not sent. -/
def execFrmFrame (body : Bytes) (s : State) : Host.Outcome State Fault Refusal :=
  .next (foldWhole body (fun t => .bytes (framed t)) s)

/-- `FRM.START` (R102). -/
def execFrmStart (s : State) : Host.Outcome State Fault Refusal :=
  .next (whenIdle s fun s => respond .unit { s with ck := seed, ph := .body })

/-- `FRM.BYTE b` (R103). -/
def execFrmByte (b : Byte) (s : State) : Host.Outcome State Fault Refusal :=
  .next (whenBody s fun s => respond (.byte b) { s with ck := s.ck ^^^ b })

/-- `FRM.END` (R104). -/
def execFrmEnd (s : State) : Host.Outcome State Fault Refusal :=
  .next (whenBody s fun s => respond (.bytes [term, s.ck ^^^ term]) { s with ck := seed, ph := .idle })

end Sys2Proof.Machine
end

