-- ==== Sys2Proof/Machine/Layout.lean ====
section
/-! DEFINITION. The wire layouts of the opcode table (its rows of format `FRAME` and `BODY`). They are no operations of
the command port (spec/30_encoding.md R73): their meaning is the bytes the layout puts on the wire for its fields, given
as the response, with no register or buffer read or written (log entry 6). A decimal digit above 9 does not fit its
field and is answered as `FLD.DEC` answers it (R63, R121). -/

namespace Sys2Proof.Machine

/-- One decimal digit byte: a decimal field of width 1 (R63, R121). -/
def digitByte (d : Nibble) : Except Cause Bytes := fdec 1 d.toNat

/-- `FRAME.TRAILER c`: the terminator, then the checksum byte (R60). -/
def execFrameTrailer (c : Byte) (s : State) : Host.Outcome State Fault Refusal :=
  .next (respond (.bytes [term, c]) s)

/-- `FIELD.DECIMAL_DIGIT d` (R63). -/
def execFieldDecimalDigit (d : Nibble) (s : State) : Host.Outcome State Fault Refusal :=
  .next (finish .bytes (digitByte d) s)

/-- `FIELD.NIBBLE_CHAR n` (R65). -/
def execFieldNibbleChar (n : Nibble) (s : State) : Host.Outcome State Fault Refusal :=
  .next (respond (.bytes [nibbleChar n]) s)

/-- The digits of a body in order, the first that is no digit faulting. -/
def digitBytes : List Nibble → Except Cause Bytes
  | [] => .ok []
  | d :: ds =>
    match digitByte d with
    | .error c => .error c
    | .ok b =>
      match digitBytes ds with
      | .error c => .error c
      | .ok bs => .ok (b ++ bs)

/-- `BODY.LINE_NUMBER a, b, c`: the prefix of the pinned row, then three digits (R71). -/
def execBodyLineNumber (a b c : Nibble) (s : State) : Host.Outcome State Fault Refusal :=
  .next (finish (fun ds => .bytes (prefixBytes rowLineNumber ++ ds)) (digitBytes [a, b, c]) s)

/-- `BODY.LP_NEXT_STOP_ID h, l`: the prefix of the pinned row, then two nibble characters (R71). -/
def execBodyLpNextStopId (h l : Nibble) (s : State) : Host.Outcome State Fault Refusal :=
  .next (respond (.bytes (prefixBytes rowLpNextStopId ++ [nibbleChar h, nibbleChar l])) s)

/-- `BODY.DEST_TEXT.HEADER n`: the prefix of the pinned row, then the block count (R67, R71). -/
def execBodyDestTextHeader (n : Nibble) (s : State) : Host.Outcome State Fault Refusal :=
  .next (respond (.bytes (prefixBytes rowDestText ++ [nibbleChar n])) s)

/-- `BODY.BLOCK.COUNT n` (R67). -/
def execBodyBlockCount (n : Nibble) (s : State) : Host.Outcome State Fault Refusal :=
  .next (respond (.bytes [nibbleChar n]) s)

/-- `BODY.LSA.LENGTH m` (R69). -/
def execBodyLsaLength (m : Nibble) (s : State) : Host.Outcome State Fault Refusal :=
  .next (respond (.bytes [nibbleChar m]) s)

/-- `BODY.LPCONN.CONTROL`: the three control bytes in their order (R68). -/
def execBodyLpconnControl (s : State) : Host.Outcome State Fault Refusal :=
  .next (respond (.bytes [0x03, 0x04, 0x05]) s)

/-- `BODY.DISPLAY_STATUS.REFERENCE a`: the reference prefix, then the address nibble (R71). -/
def execBodyDisplayStatusReference (a : Nibble) (s : State) : Host.Outcome State Fault Refusal :=
  .next (respond (.bytes (prefixBytes Config.referenceDisplayStatus ++ [nibbleChar a])) s)

end Sys2Proof.Machine
end

