-- ==== Sys2Proof/Machine/ReplyDec.lean ====
section
/-! DEFINITION. The operations of REPLYDEC, the reply decoder (spec/44_reply_decoder.md R140 to R153). It verifies no
checksum and returns all fields of a reply or none. -/

namespace Sys2Proof.Machine

/-- `RX.STRIP raw` (R141). -/
def execRxStrip (raw : Bytes) (s : State) : Host.Outcome State Fault Refusal :=
  .next (finish .bytes (strip raw) s)

/-- `DEC.STATUS c` (R142): total. -/
def execDecStatus (c : Byte) (s : State) : Host.Outcome State Fault Refusal :=
  .next (respond (.status (statusOf s.cfg c)) s)

/-- The beacon identifier: exactly eight nibble characters (R145). -/
def beacon (cs : Bytes) : Except Cause Nat :=
  if cs.length ≠ 8 then .error (.paramFault (some 0) (some cs.length)) else decw cs

/-- `DEC.BEACON cs` (R145). -/
def execDecBeacon (cs : Bytes) (s : State) : Host.Outcome State Fault Refusal :=
  .next (finish .nat (beacon cs) s)

/-- `DEC.VERSTR s` (R146): the bytes unchanged. -/
def execDecVerstr (b : Bytes) (s : State) : Host.Outcome State Fault Refusal :=
  .next (respond (.value (.str b)) s)

/-- `DEC.VERINT s` (R147). -/
def execDecVerint (b : Bytes) (s : State) : Host.Outcome State Fault Refusal :=
  .next (finish (fun n => .value (.num n)) (parseInt b) s)

/-- The decode of a raw reply by a reply record: staged in `RBUF`, no reply where it is short, else every field of the
payload; `RLEN` is 0 again at the end (R140, R151, R152). -/
def decodeStaged (rp : ReplySpec) (bs : Bytes) (s : State) : State × Except Cause ReplyResult :=
  let staged := stageReply bs s
  if staged.rlen < rp.rlen then (clearReply staged, .ok .noReply)
  else (clearReply staged, decFields s.cfg rp.rfields (memReadN staged.rbuf 0 (rp.rlen - 2)) [])

/-- The decode `DEC.REPLY ds, r` (R152), with the state it leaves. The raw reply is operand 1 (log entry 8). -/
def decodeReply (ds : DsId) (r : Option Bytes) (s : State) : State × Except Cause ReplyResult :=
  match dsRow s.cfg ds with
  | none => (s, .error (.unknownDs ds))
  | some row =>
    match row.reply with
    | none => (s, paramFault)
    | some rp =>
      match r with
      | none => (s, .ok .noReply)
      | some bs =>
        if rp.rlen < bs.length then (s, .error (.paramFault (some 1) none))
        else if fits s.cfg.rbufCap bs.length then decodeStaged rp bs s
        else (s, .error (.capacityFault .rbuf))

/-- End a transaction with what a decode answered, in the state it left: the reply, or its fault (R140, R152). -/
def finishReply (i : Instr) (folded : Bool) (decoded : State × Except Cause ReplyResult) : State :=
  match decoded with
  | (s, .ok v) => respond (.reply v) s
  | (s, .error c) => raiseFor i folded c s

/-- `DEC.REPLY ds, r` (R152). -/
def execDecReply (ds : DsId) (r : Option Bytes) (s : State) : Host.Outcome State Fault Refusal :=
  .next (finishReply (.decReply ds r) false (decodeReply ds r s))

end Sys2Proof.Machine
end

