-- ==== Sys2Proof/Machine/Scm.lean ====
section
/-! DEFINITION. The operations of SCM, the special-character mapper (spec/41_special_char.md R91 to R95). They read and
write no register and are total. -/

namespace Sys2Proof.Machine

/-- `SCM.CHR cp` (R91). -/
def execScmChr (cp : CodePoint) (s : State) : Host.Outcome State Fault Refusal :=
  .next (respond (.byte (scm cp)) s)

/-- `SCM.STR t` (R92). -/
def execScmStr (t : Text) (s : State) : Host.Outcome State Fault Refusal :=
  .next (respond (.bytes (sanitize t)) s)

end Sys2Proof.Machine
end

