-- ==== Sys2Proof/Machine/VdvHex.lean ====
section
/-! DEFINITION. The operations of VDVHEX, the nibble codec (spec/40_vdvhex.md R81 to R86). They read and write no
register. -/

namespace Sys2Proof.Machine

/-- `VDV.ENC n` (R81): total. -/
def execVdvEnc (n : Nibble) (s : State) : Host.Outcome State Fault Refusal :=
  .next (respond (.byte (nibbleChar n)) s)

/-- `VDV.DEC c` (R82). -/
def execVdvDec (c : Byte) (s : State) : Host.Outcome State Fault Refusal :=
  .next (finish .nibble (dec c) s)

/-- `VDV.ENCW k, v` (R83). -/
def execVdvEncw (k v : Nat) (s : State) : Host.Outcome State Fault Refusal :=
  .next (finish .bytes (encw k v) s)

/-- `VDV.DECW cs` (R84). -/
def execVdvDecw (cs : Bytes) (s : State) : Host.Outcome State Fault Refusal :=
  .next (finish .nat (decw cs) s)

end Sys2Proof.Machine
end

