-- ==== Sys2Proof/Machine/Xfer.lean ====
section
/-! DEFINITION. The transfer operations (spec/45_session.md R162 to R166): the only ones that reach TRANSPORT. -/

namespace Sys2Proof.Machine

/-- The end of a send-only transfer of a body: one `send`, then `Ok` or `TransportError(send)` (R162, R163, R174). -/
def sendBody (body : Bytes) (s : State) : State :=
  match transmit body s with
  | (s, .success) => respond .unit s
  | (s, .ioError) => raise true (.transportError .send) s

/-- `XFER.SEND ds, params` (R162). -/
def execXferSend (ds : DsId) (params : List Operand) (s : State) : Host.Outcome State Fault Refusal :=
  .next <| whenIdle s fun s =>
    match dsRow s.cfg ds with
    | none => raise false (.unknownDs ds) s
    | some row =>
      match row.reply with
      | some _ => raiseFor (.xferSend ds params) false (.paramFault none none) s
      | none =>
        match encodeBody s.cfg ds params with
        | .error c => raiseFor (.xferSend ds params) false c s
        | .ok body => sendBody body s

/-- `XFER.SENDRAW body` (R163): framed, but not passed through the mapper. -/
def execXferSendraw (body : Bytes) (s : State) : Host.Outcome State Fault Refusal :=
  .next <| whenIdle s fun s =>
    if fits s.cfg.bufCap body.length then sendBody body s else raise false (.capacityFault .buf) s

/-- The receive half of a query: exactly one `receive` of the expected length; a timeout is `NoReply`, bytes are decoded
as by `DEC.REPLY` (R164, R166). -/
def receiveReply (i : Instr) (ds : DsId) (rlen : Nat) (s : State) : State :=
  match receive rlen s with
  | (s, .ioError) => raise true (.transportError .receive) s
  | (s, .timeout) => respond (.reply .noReply) s
  | (s, .bytes bs) => finishReply i true (decodeReply ds (some bs) s)

/-- `XFER.QUERY ds, params` (R164). -/
def execXferQuery (ds : DsId) (params : List Operand) (s : State) : Host.Outcome State Fault Refusal :=
  .next <| whenIdle s fun s =>
    match dsRow s.cfg ds with
    | none => raise false (.unknownDs ds) s
    | some row =>
      match row.reply with
      | none => raiseFor (.xferQuery ds params) false (.paramFault none none) s
      | some rp =>
        if fits s.cfg.rbufCap rp.rlen then
          match encodeBody s.cfg ds params with
          | .error c => raiseFor (.xferQuery ds params) false c s
          | .ok body =>
            match transmit body s with
            | (s, .ioError) => raise true (.transportError .send) s
            | (s, .success) => receiveReply (.xferQuery ds params) ds rp.rlen s
        else raise false (.capacityFault .rbuf) s

end Sys2Proof.Machine
end

