-- ==== Sys2Proof/Machine/Dispatch.lean ====
section
/-! DEFINITION. The dispatch of an instruction to its meaning, one arm per constructor of Instr. -/

namespace Sys2Proof.Machine

def exec (i : Instr) (s : State) : Host.Outcome State Fault Refusal :=
  match i with
  | .vdvEnc n => Sys2Proof.Machine.execVdvEnc n s
  | .vdvDec c => Sys2Proof.Machine.execVdvDec c s
  | .vdvEncw k v => Sys2Proof.Machine.execVdvEncw k v s
  | .vdvDecw cs => Sys2Proof.Machine.execVdvDecw cs s
  | .scmChr cp => Sys2Proof.Machine.execScmChr cp s
  | .scmStr t => Sys2Proof.Machine.execScmStr t s
  | .frmCksum body => Sys2Proof.Machine.execFrmCksum body s
  | .frmFrame body => Sys2Proof.Machine.execFrmFrame body s
  | .frmStart => Sys2Proof.Machine.execFrmStart s
  | .frmByte b => Sys2Proof.Machine.execFrmByte b s
  | .frmEnd => Sys2Proof.Machine.execFrmEnd s
  | .fldDec w v => Sys2Proof.Machine.execFldDec w v s
  | .fldTxt w pad align t => Sys2Proof.Machine.execFldTxt w pad align t s
  | .fldRaw w pad align b => Sys2Proof.Machine.execFldRaw w pad align b s
  | .encFixed ds params => Sys2Proof.Machine.execEncFixed ds params s
  | .encBlock ds t => Sys2Proof.Machine.execEncBlock ds t s
  | .encLpconn ds stopId stopText changeText => Sys2Proof.Machine.execEncLpconn ds stopId stopText changeText s
  | .encLsa ds params => Sys2Proof.Machine.execEncLsa ds params s
  | .rxStrip raw => Sys2Proof.Machine.execRxStrip raw s
  | .decStatus c => Sys2Proof.Machine.execDecStatus c s
  | .decBeacon cs => Sys2Proof.Machine.execDecBeacon cs s
  | .decVerstr b => Sys2Proof.Machine.execDecVerstr b s
  | .decVerint b => Sys2Proof.Machine.execDecVerint b s
  | .decReply ds r => Sys2Proof.Machine.execDecReply ds r s
  | .xferSend ds params => Sys2Proof.Machine.execXferSend ds params s
  | .xferSendraw body => Sys2Proof.Machine.execXferSendraw body s
  | .xferQuery ds params => Sys2Proof.Machine.execXferQuery ds params s
  | .frameTrailer c => Sys2Proof.Machine.execFrameTrailer c s
  | .fieldDecimalDigit d => Sys2Proof.Machine.execFieldDecimalDigit d s
  | .fieldNibbleChar n => Sys2Proof.Machine.execFieldNibbleChar n s
  | .bodyLineNumber a b c => Sys2Proof.Machine.execBodyLineNumber a b c s
  | .bodyLpNextStopId h l => Sys2Proof.Machine.execBodyLpNextStopId h l s
  | .bodyDestTextHeader n => Sys2Proof.Machine.execBodyDestTextHeader n s
  | .bodyBlockCount n => Sys2Proof.Machine.execBodyBlockCount n s
  | .bodyLsaLength m => Sys2Proof.Machine.execBodyLsaLength m s
  | .bodyLpconnControl => Sys2Proof.Machine.execBodyLpconnControl s
  | .bodyDisplayStatusReference a => Sys2Proof.Machine.execBodyDisplayStatusReference a s

end Sys2Proof.Machine
end

