-- ==== Sys2Proof/Machine/Port.lean ====
section
/-! DEFINITION. The faults of the command port: which fault a request answers whose operands do not have the types or
the number of its operation (spec/60_exceptions.md R179, R181, spec/43_body_encoder.md R133), and the answer to every
request that is no instruction. -/

namespace Sys2Proof.Machine

/-- Whether the first operand of an opcode is a data set (the table of R73). -/
def takesDs (op : Byte) : Bool :=
  match signature op with
  | some (.ds :: _) => true
  | _ => false

/-- Whether a row serves an operation: an encoder's shape, a reply for the operations that decode one, none for
`XFER.SEND` (R126, R128, R130, R132, R152, R162, R164). -/
def rowServes (op : Byte) (row : Row) : Bool :=
  match op.toNat, row.shape with
  | 0x48, .fixed _ => true
  | 0x49, .block _ => true
  | 0x4A, .lpconn _ _ => true
  | 0x4B, .lsa _ => true
  | 0x58, _ => row.reply.isSome
  | 0x60, _ => row.reply.isNone
  | 0x62, _ => row.reply.isSome
  | _, _ => false

/-- Whether a query's reply is longer than `RBUF`, which a query checks before it looks at its operands (R164). -/
def queryTooLong (cfg : Config) (op : Byte) (row : Row) : Bool :=
  op == 0x62 && match row.reply with
    | some rp => !fits cfg.rbufCap rp.rlen
    | none => false

/-- The fault of an operation's row, which comes before every fault of its further operands: an unknown data set, a row
that does not serve the operation, a reply longer than the buffer (R133, R152, R162, R164). -/
def rowFault (cfg : Config) (op : Byte) (ds : DsId) : Option Cause :=
  match dsRow cfg ds with
  | none => some (.unknownDs ds)
  | some row =>
    if rowServes op row then
      if queryTooLong cfg op row then some (.capacityFault .rbuf) else none
    else some (.paramFault none none)

/-- The fault of operands that do not match an operation found in its phase: the fault of the row its data set names,
then `ParamFault` with the index of the first operand of a wrong type (R133, R179, log entries 8 and 18). -/
def argFault (cfg : Config) (op : Byte) (args : List Arg) (index : Option Nat) : Cause :=
  match args with
  | .ds d :: _ => if takesDs op then (rowFault cfg op d).getD (.paramFault index none) else .paramFault index none
  | _ => .paramFault index none

/-- The fault of a command whose operands do not match its operation: `PhaseFault` precedes every other fault of an
operation that can raise it (R181, log entry 18). -/
def operandFault (cfg : Config) (op : Byte) (args : List Arg) (index : Option Nat) (ph : Phase) : Cause :=
  match neededPhase op with
  | none => argFault cfg op args index
  | some p => if ph = p then argFault cfg op args index else .phaseFault ph

/-- The operands of a request at the command port. -/
def requestArgs : Request → List Arg
  | .cmd _ args => args
  | .wire _ _ => []

/-- The answer to a request that is no instruction: a reserved opcode is `IllegalCommand` (R175), operands that do not
match the operation are its `operandFault`, and wire bytes without the layout asked for are refused. -/
def answerReject (r : Request) (e : Reject) (s : State) : Host.Outcome State Fault Refusal :=
  match e with
  | .illegalCommand op => .next (raise false (.illegalCommand op) s)
  | .operands op index =>
    .next (raise false (settleFor s.cfg r (operandFault s.cfg op (requestArgs r) index s.ph)) s)
  | .noLayout slot => .refused (.noLayout slot)

end Sys2Proof.Machine
end

