-- ==== Sys2Proof/Machine/Step.lean ====
section
/-! DEFINITION. One step of IBISTC: the next request of the host is decoded and executed as one transaction
(spec/00_scope.md R8), or answered by the fault of the command port (Machine/Port.lean). -/

namespace Sys2Proof.Machine

/-- One step. With no request pending IBISTC waits and nothing changes (R182, R190). -/
def step (s : State) : Host.Outcome State Fault Refusal :=
  match s.requests with
  | [] => .next s
  | r :: rest =>
    match decode r with
    | .ok i => exec i { s with requests := rest }
    | .error e => answerReject r e { s with requests := rest }

/-- `s` with the request of an opcode-table word as the host's next one (log entries 4, 5). -/
def State.withFetchWord (s : State) (nbits w : Nat) : State :=
  { s with requests := tableRequest nbits w :: s.requests }

end Sys2Proof.Machine
end

