-- ==== Sys2Proof/Safety.lean ====
section
/-! DEFINITION. The terms claims are stated in: the checksum and the framed telegram as functions of a body
(spec/42_framer.md R100, R101), the quiescent invariant (spec/10_state.md R32) with the form of the buffers and of the
output log, and what of a state a response may depend on. -/

namespace Sys2Proof.Machine

/-- `cksum(B) = 0x7F ^ B[0] ^ ... ^ B[n-1] ^ 0x0D` (R100). -/
def cksum (body : Bytes) : Byte := body.foldl (fun c b => c ^^^ b) 0x7F ^^^ 0x0D

/-- `frame(B) = B ++ [0x0D, cksum(B)]` (R60, R101). -/
def frameOf (body : Bytes) : Bytes := body ++ [0x0D, cksum body]

/-- The exclusive-or of all bytes of a sequence (R107). -/
def xorAll (bs : Bytes) : Byte := bs.foldl (fun c b => c ^^^ b) 0

/-- A byte sequence that is one complete framed telegram (R25). -/
def IsFrame (bs : Bytes) : Prop := ∃ body, bs = frameOf body

/-- The quiescent invariant (R32): both lengths are 0, and `CK` is the seed unless a streamed frame is open. -/
def Quiescent (s : State) : Prop :=
  s.blen = 0 ∧ s.rlen = 0 ∧ (s.ph = .idle → s.ck = 0x7F)

/-- A store is in canonical form and lies inside its capacity (R23, R24). -/
def BufferOk (m : Memory) (cap : Option Nat) : Prop :=
  Memory.wf m ∧ ∀ k, cap = some k → ∀ c ∈ m, c.1 < k

/-- The invariant of the machine: quiescent between transactions, buffers well formed and inside their capacities, and
every element of `OUT` a complete framed telegram (R23 to R25, R32). -/
def MachineInv (s : State) : Prop :=
  Quiescent s ∧ BufferOk s.buf s.cfg.bufCap ∧ BufferOk s.rbuf s.cfg.rbufCap ∧ ∀ bs ∈ s.out, IsFrame bs

/-- A safe run never stops: every step answers a next state (R183, R204). -/
def Safe (s : State) : Prop := ∀ k, ∃ t, Sys2Proof.core.run k s = .next t

/-- The bytes that responses return to the host, in order. -/
def returnedBytes : List Response → Bytes
  | [] => []
  | .ok (.byte b) :: rs => b :: returnedBytes rs
  | .ok (.bytes bs) :: rs => bs ++ returnedBytes rs
  | _ :: rs => returnedBytes rs

/-- The three transfer operations, the only ones that reach TRANSPORT (R109). -/
def isTransfer : Instr → Bool
  | .xferSend _ _ => true
  | .xferSendraw _ => true
  | .xferQuery _ _ => true
  | _ => false

/-- The two operations whose response depends on `CK` or on an open frame beyond the phase test (R32). -/
def isStreamed : Instr → Bool
  | .frmByte _ => true
  | .frmEnd => true
  | _ => false

/-- Two states that agree on everything a response may depend on apart from `CK`: the phase, the configuration and the
inputs of the step (R32, R33). They may differ in the buffers' contents, in `OUT` and in the earlier responses. -/
def SameInputs (s t : State) : Prop :=
  s.ph = t.ph ∧ s.cfg = t.cfg ∧ s.sendAnswers = t.sendAnswers ∧ s.recvAnswers = t.recvAnswers ∧ s.drawn = t.drawn

/-- What a field's layout gives is what an instruction answers: the bytes, or the fault. A fault that names a width
records operand 0 of the instruction, and an open operand index of the layout (log entry 8). -/
def AnswersAs (r : Except Cause Bytes) (i : Instr) : Prop :=
  ∀ s : State, ∃ t, exec i s = .next t ∧
    match r with
    | .ok bs => t.responses = s.responses ++ [.ok (.bytes bs)]
    | .error c => ∃ c', t.responses = s.responses ++ [.fault c'] ∧
        (c' = c ∨ ∃ x, c = .paramFault none (some x) ∧ c' = .paramFault (some 0) (some x))

/-- What `encode_body` gives is what an encoder answers in a state: the body, or the fault with its whole info. -/
def EncodesAs (s : State) (r : Except Cause Bytes) (i : Instr) : Prop :=
  ∃ t, exec i s = .next t ∧
    match r with
    | .ok body => t.responses = s.responses ++ [.ok (.bytes body)]
    | .error c => t.responses = s.responses ++ [.fault (settleFor s.cfg (encode i) c)]

/-- TRANSPORT's answer to the next `send`: the listed one, or a free value (R33). -/
def nextSend (s : State) : SendAnswer := s.sendAnswers.head?.getD (Config.freeSend s.drawn)

/-- TRANSPORT's answer to the next `receive` after a `send`: the listed one, or a free value (R33). -/
def nextRecv (s : State) : RecvAnswer :=
  s.recvAnswers.head?.getD (Config.freeRecv (if s.sendAnswers.isEmpty then s.drawn + 1 else s.drawn))

/-- Every byte of `BUF` and `RBUF` reads the same in two states. -/
def MemorySame (s t : State) : Prop :=
  ∀ a, memRead t.buf a = memRead s.buf a ∧ memRead t.rbuf a = memRead s.rbuf a

/-- The second state's `BUF` holds `body` from address 0, every other byte of `BUF` and every byte of `RBUF` as in the
first. -/
def BodyStored (body : Bytes) (s t : State) : Prop :=
  (∀ a, memRead t.buf a = (body[a]?).getD (memRead s.buf a)) ∧ ∀ a, memRead t.rbuf a = memRead s.rbuf a

end Sys2Proof.Machine
end

