-- ==== Sys2Proof/Certificates/Slice0/Obligations.lean ====
section
/-! DEFINITION. The statements about IBISTC for the provers. Each docstring names the rule of spec/ it formalises. A next
state is written as the record `{ s with ... }` wherever the rules fix all of it: every field not named is unchanged,
the buffers' bytes included. -/

open Sys2Proof Sys2Proof.Machine

/-! ### Encoding and the step -/

/-- Decode and encode agree on every well-formed instruction, with every operand (R73, R60, R63, R65, R67 to R69, R71),
and the encoding of each of the 27 operations is its opcode of the table of R73 with its operands in the table's order.
That operands are typed values is log entry 5, that the layouts have requests log entry 6. -/
def Obligations.DecodeOfEncodeIsTheInstruction : Prop :=
  (∀ i : Instr, i.wellFormed = true → decode (encode i) = .ok i) ∧
  (∀ n, encode (.vdvEnc n) = .cmd 0x10 [.nibble n]) ∧ (∀ c, encode (.vdvDec c) = .cmd 0x11 [.byte c]) ∧
  (∀ k v, encode (.vdvEncw k v) = .cmd 0x12 [.value (.nat k), .value (.nat v)]) ∧
  (∀ cs, encode (.vdvDecw cs) = .cmd 0x13 [.value (.bytes cs)]) ∧
  (∀ cp, encode (.scmChr cp) = .cmd 0x20 [.codePoint cp]) ∧ (∀ t, encode (.scmStr t) = .cmd 0x21 [.value (.text t)]) ∧
  (∀ b, encode (.frmCksum b) = .cmd 0x30 [.value (.bytes b)]) ∧
  (∀ b, encode (.frmFrame b) = .cmd 0x31 [.value (.bytes b)]) ∧ encode .frmStart = .cmd 0x32 [] ∧
  (∀ b, encode (.frmByte b) = .cmd 0x33 [.byte b]) ∧ encode .frmEnd = .cmd 0x34 [] ∧
  (∀ w v, encode (.fldDec w v) = .cmd 0x40 [.value (.nat w), .value (.int v)]) ∧
  (∀ w p a t, encode (.fldTxt w p a t) = .cmd 0x41 [.value (.nat w), .char7 p, .align a, .value (.text t)]) ∧
  (∀ w p a b, encode (.fldRaw w p a b) = .cmd 0x43 [.value (.nat w), .char7 p, .align a, .value (.bytes b)]) ∧
  (∀ d xs, encode (.encFixed d xs) = .cmd 0x48 [.ds d, .params xs]) ∧
  (∀ d t, encode (.encBlock d t) = .cmd 0x49 [.ds d, .value (.text t)]) ∧
  (∀ d x t u, encode (.encLpconn d x t u) = .cmd 0x4A [.ds d, .value x, .value (.text t), .value (.text u)]) ∧
  (∀ d xs, encode (.encLsa d xs) = .cmd 0x4B [.ds d, .params xs]) ∧
  (∀ b, encode (.rxStrip b) = .cmd 0x50 [.value (.bytes b)]) ∧ (∀ c, encode (.decStatus c) = .cmd 0x51 [.byte c]) ∧
  (∀ b, encode (.decBeacon b) = .cmd 0x52 [.value (.bytes b)]) ∧
  (∀ b, encode (.decVerstr b) = .cmd 0x53 [.value (.bytes b)]) ∧
  (∀ b, encode (.decVerint b) = .cmd 0x54 [.value (.bytes b)]) ∧
  (∀ d b, encode (.decReply d (some b)) = .cmd 0x58 [.ds d, .value (.bytes b)]) ∧
  (∀ d, encode (.decReply d none) = .cmd 0x58 [.ds d, .absent]) ∧
  (∀ d xs, encode (.xferSend d xs) = .cmd 0x60 [.ds d, .params xs]) ∧
  (∀ b, encode (.xferSendraw b) = .cmd 0x61 [.value (.bytes b)]) ∧
  ∀ d xs, encode (.xferQuery d xs) = .cmd 0x62 [.ds d, .params xs]

/-- The other direction for the wire layouts: bytes read as a layout row are exactly the bytes that row encodes to, and
its digits are decimal (R60, R63, R65, R67 to R69, R71). -/
def Obligations.DecodedWireBytesEncodeBack : Prop :=
  ∀ (slot : WireSlot) (bs : Bytes) (i : Instr),
    decode (.wire slot bs) = .ok i → encode i = .wire slot bs ∧ i.wellFormed = true

/-- A reserved opcode is `IllegalCommand`, with no state change (R175). The 27 opcodes are those of the table of R73. -/
def Obligations.ReservedOpcodeAnswersIllegalCommand : Prop :=
  ∀ (s : State) (op : Byte) (args : List Arg) (rest : List Request),
    s.requests = .cmd op args :: rest → s.blen = 0 → s.rlen = 0 →
    op ∉ ([0x10, 0x11, 0x12, 0x13, 0x20, 0x21, 0x30, 0x31, 0x32, 0x33, 0x34, 0x40, 0x41, 0x43, 0x48, 0x49, 0x4A, 0x4B,
      0x50, 0x51, 0x52, 0x53, 0x54, 0x58, 0x60, 0x61, 0x62] : List Byte) →
    step s = .next { s with requests := rest, responses := s.responses ++ [.fault (.illegalCommand op)] }

/-- Operands that do not match the operation, in the order of R133 and R181: `PhaseFault` where the operation can raise it
and the phase is wrong; `UnknownDS` where the data set is unknown; `CapacityFault` where a query's reply exceeds `RBUF`;
else `ParamFault`, with the index of the first operand of a wrong type where the row serves the operation and there is
one; nothing else happens (R179). That the port answers such a request so, and which index it records, is the model's
choice (log entries 8 and 18). -/
def Obligations.MismatchedOperandsAnswerTheFirstFault : Prop :=
  ∀ (s : State) (op : Byte) (args : List Arg) (rest : List Request) (index : Option Nat),
    s.requests = .cmd op args :: rest → decode (.cmd op args) = .error (.operands op index) →
    ∃ c, step s = .next { s with
        requests := rest, blen := 0, rlen := 0, responses := s.responses ++ [.fault c] } ∧
      (((op ∈ ([0x30, 0x31, 0x32, 0x60, 0x61, 0x62] : List Byte) ∧ s.ph = .body) ∨
        (op ∈ ([0x33, 0x34] : List Byte) ∧ s.ph = .idle)) → c = .phaseFault s.ph) ∧
      (¬ ((op ∈ ([0x30, 0x31, 0x32, 0x60, 0x61, 0x62] : List Byte) ∧ s.ph = .body) ∨
        (op ∈ ([0x33, 0x34] : List Byte) ∧ s.ph = .idle)) →
        (∀ d more, args = .ds d :: more → op ∈ ([0x48, 0x49, 0x4A, 0x4B, 0x58, 0x60, 0x62] : List Byte) →
          dsRow s.cfg d = none → c = .unknownDs d) ∧
        (∀ d more row rp k, args = .ds d :: more → op = 0x62 → dsRow s.cfg d = some row → row.reply = some rp →
          s.cfg.rbufCap = some k → k < rp.rlen → c = .capacityFault .rbuf) ∧
        ((∀ d more, args = .ds d :: more → op ∈ ([0x48, 0x49, 0x4A, 0x4B, 0x58, 0x60, 0x62] : List Byte) →
            ∃ row, dsRow s.cfg d = some row ∧
              (op = 0x62 → ∀ rp k, row.reply = some rp → s.cfg.rbufCap = some k → rp.rlen ≤ k)) →
          ∃ k, c = .paramFault (some k) none ∧
            ((∀ d more row, args = .ds d :: more → op ∈ ([0x48, 0x49, 0x4A, 0x4B, 0x58, 0x60, 0x62] : List Byte) →
              dsRow s.cfg d = some row → rowServes op row = true) → ∀ i, index = some i → k = i)))

/-- A few words written out from the spec's encodings decode to the rows they stand for (R60, R68, R71, R73, R74). The zero
operand of the word 0x11 is log entry 5, that longer words are read as wire layouts log entry 6, and that the most
significant byte comes first log entry 19. -/
def Obligations.WordsOfTheTableDecode : Prop :=
  decodeTableWord 8 0x32 = some .frmStart ∧
  decodeTableWord 8 0x11 = some (.vdvDec 0) ∧
  decodeTableWord 8 0x42 = none ∧
  decodeTableWord 32 0x6C303132 = some (.bodyLineNumber 0 1 2) ∧
  decodeTableWord 32 0x785A313A = some (.bodyLpNextStopId 1 10) ∧
  decodeTableWord 24 0x7A413F = some (.bodyDestTextHeader 15) ∧
  decodeTableWord 24 0x030405 = some .bodyLpconnControl ∧
  decodeTableWord 16 0x0D2D = some (.frameTrailer 0x2D)

/-- A step executes the decoded request as one transaction, the request taken off the queue (R8; the queue is log entry
4). -/
def Obligations.StepExecutesTheDecodedRequest : Prop :=
  ∀ (s : State) (r : Request) (rest : List Request) (i : Instr),
    s.requests = r :: rest → decode r = .ok i → step s = exec i { s with requests := rest }

/-- Without a request IBISTC waits: nothing changes (R182, R190). -/
def Obligations.StepWaitsWithoutRequest : Prop :=
  ∀ s : State, s.requests = [] → step s = .next s

/-! ### VDVHEX -/

/-- `VDV.ENC` (R81): opcode 0x10; total, the byte `0x30 | n`, a char7. -/
def Obligations.VdvEncAnswersTheNibbleChar : Prop :=
  ∀ (n : Nibble) (s : State), decode (.cmd 0x10 [.nibble n]) = .ok (.vdvEnc n) ∧
    exec (.vdvEnc n) s = .next { s with responses := s.responses ++ [.ok (.byte (0x30 ||| n.setWidth 8))] } ∧
    (0x30 : Byte) ||| n.setWidth 8 ≤ 0x7F

/-- `VDV.DEC` (R82): opcode 0x11; the low nibble where the high one is 3, else `InvalidSymbol` with the byte. -/
def Obligations.VdvDecAnswersTheNibbleOrInvalidSymbol : Prop :=
  ∀ (c : Byte) (s : State), decode (.cmd 0x11 [.byte c]) = .ok (.vdvDec c) ∧
    exec (.vdvDec c) s =
      if c.extractLsb' 4 4 = 0x3#4 then
        .next { s with responses := s.responses ++ [.ok (.nibble (c.extractLsb' 0 4))] }
      else
        .next { s with blen := 0, rlen := 0, responses := s.responses ++ [.fault (.invalidSymbol c)] }

/-- `VDV.ENCW` (R83): the base-16 digits of the value as nibble characters, most significant first; a width outside 1
to 8 and a value of more nibbles fault. What `ParamFault` records is the model's reading (log entry 8). -/
def Obligations.VdvEncwAnswersTheNibblesOfTheValue : Prop :=
  ∀ (k v : Nat) (s : State),
    (k < 1 ∨ 8 < k → exec (.vdvEncw k v) s =
      .next { s with blen := 0, rlen := 0, responses := s.responses ++ [.fault (.paramFault (some 0) (some k))] }) ∧
    (1 ≤ k → k ≤ 8 → 16 ^ k ≤ v → exec (.vdvEncw k v) s =
      .next { s with blen := 0, rlen := 0, responses := s.responses ++ [.fault (.encodingError .nibbleRange v)] }) ∧
    (1 ≤ k → k ≤ 8 → v < 16 ^ k → exec (.vdvEncw k v) s =
      .next { s with responses := s.responses ++ [.ok (.bytes
        ((List.range k).map fun i => 0x30 ||| BitVec.ofNat 8 (v / 16 ^ (k - 1 - i) % 16)))] })

/-- `VDV.DECW` (R84): the number the nibble characters write in base 16; the first byte outside the alphabet and a
length outside 1 to 8 fault. What `ParamFault` records is the model's reading (log entry 8). -/
def Obligations.VdvDecwAnswersTheNumberInBase16 : Prop :=
  ∀ (cs : Bytes) (s : State),
    (cs.length < 1 ∨ 8 < cs.length → exec (.vdvDecw cs) s =
      .next { s with
        blen := 0, rlen := 0, responses := s.responses ++ [.fault (.paramFault (some 0) (some cs.length))] }) ∧
    (1 ≤ cs.length → cs.length ≤ 8 → (∀ c ∈ cs, c.extractLsb' 4 4 = 0x3#4) → exec (.vdvDecw cs) s =
      .next { s with
        responses := s.responses ++ [.ok (.nat (cs.foldl (fun v c => v * 16 + (c.extractLsb' 0 4).toNat) 0))] }) ∧
    (∀ (before after : Bytes) (c : Byte), cs = before ++ c :: after → cs.length ≤ 8 →
      (∀ b ∈ before, b.extractLsb' 4 4 = 0x3#4) → c.extractLsb' 4 4 ≠ 0x3#4 → exec (.vdvDecw cs) s =
      .next { s with blen := 0, rlen := 0, responses := s.responses ++ [.fault (.invalidSymbol c)] })

/-- The round trips of the nibble codec (R85): one character both ways, `dec` defined on exactly the sixteen bytes 0x30
to 0x3F, and the multi-nibble forms both ways. -/
def Obligations.NibbleCodecRoundTrips : Prop :=
  (∀ n : Nibble, dec (nibbleChar n) = .ok n) ∧
  (∀ c : Byte, 0x30 ≤ c → c ≤ 0x3F → ∃ n, dec c = .ok n ∧ nibbleChar n = c) ∧
  (∀ c : Byte, (∃ n, dec c = .ok n) ↔ 0x30 ≤ c ∧ c ≤ 0x3F) ∧
  (∀ k v : Nat, 1 ≤ k → k ≤ 8 → v < 16 ^ k → ∃ cs, encw k v = .ok cs ∧ decw cs = .ok v) ∧
  (∀ cs : Bytes, 1 ≤ cs.length → cs.length ≤ 8 → (∀ c ∈ cs, 0x30 ≤ c ∧ c ≤ 0x3F) →
    ∃ v, decw cs = .ok v ∧ encw cs.length v = .ok cs)

/-! ### SCM -/

/-- `SCM.CHR` (R91, with the seven rows of R90): opcode 0x20; the table, else ASCII unchanged, else `?`. -/
def Obligations.ScmChrAnswersTheMappedCharacter : Prop :=
  ∀ (cp : CodePoint) (s : State), decode (.cmd 0x20 [.codePoint cp]) = .ok (.scmChr cp) ∧
    exec (.scmChr cp) s = .next { s with responses := s.responses ++ [.ok (.byte
      (if cp = 0xE4 then 0x7B else if cp = 0xF6 then 0x7C else if cp = 0xFC then 0x7D else if cp = 0xDF then 0x7E
        else if cp = 0xC4 then 0x5B else if cp = 0xD6 then 0x5C else if cp = 0xDC then 0x5D
        else if cp ≤ 0x7F then cp.setWidth 8 else 0x3F))] }

/-- `SCM.STR` (R92): opcode 0x21; one byte per code point, each the byte `SCM.CHR` gives it. -/
def Obligations.ScmStrMapsEveryCharacter : Prop :=
  ∀ (t : Text) (s : State), decode (.cmd 0x21 [.value (.text t)]) = .ok (.scmStr t) ∧ ∃ bs : Bytes,
    exec (.scmStr t) s = .next { s with responses := s.responses ++ [.ok (.bytes bs)] } ∧
    bs.length = t.length ∧
    ∀ (i : Nat) (cp : CodePoint), t[i]? = some cp → ∃ b, bs[i]? = some b ∧
      exec (.scmChr cp) s = .next { s with responses := s.responses ++ [.ok (.byte b)] }

/-- The laws of the mapper (R93): every byte is a char7; a text of ASCII is unchanged; mapping the output again changes
nothing; `?` stands where, and for a text without `?` only where, the text has an unmapped non-ASCII character. -/
def Obligations.SanitizeLaws : Prop :=
  ∀ t : Text,
    (∀ b ∈ sanitize t, b ≤ 0x7F) ∧
    ((∀ cp ∈ t, cp ≤ 0x7F) → sanitize t = t.map fun cp => cp.setWidth 8) ∧
    sanitize ((sanitize t).map fun b => b.setWidth 21) = sanitize t ∧
    ∀ (i : Nat) (cp : CodePoint), t[i]? = some cp → cp ≠ 0x3F →
      ((sanitize t)[i]? = some 0x3F ↔
        0x7F < cp ∧ cp ∉ ([0xE4, 0xF6, 0xFC, 0xDF, 0xC4, 0xD6, 0xDC] : List CodePoint))

/-! ### FRAMER -/

/-- `FRM.FRAME` (R101, with R100): the framed telegram where no streamed frame is open and the body fits, `PhaseFault`
before `CapacityFault` otherwise. What `BUF` holds afterwards is the model's choice (log entry 7). -/
def Obligations.FrmFrameAnswersTheFramedTelegram : Prop :=
  ∀ (body : Bytes) (s : State), Memory.wf s.buf →
    (s.ph = .body → exec (.frmFrame body) s =
      .next { s with blen := 0, rlen := 0, responses := s.responses ++ [.fault (.phaseFault .body)] }) ∧
    (s.ph = .idle → ∀ k, s.cfg.bufCap = some k → k < body.length → exec (.frmFrame body) s =
      .next { s with blen := 0, rlen := 0, responses := s.responses ++ [.fault (.capacityFault .buf)] }) ∧
    (s.ph = .idle → (∀ k, s.cfg.bufCap = some k → body.length ≤ k) → ∃ t, exec (.frmFrame body) s = .next t ∧
      t = { s with
        ck := 0x7F, buf := t.buf, blen := 0
        responses := s.responses ++ [.ok (.bytes
          (body ++ [0x0D, body.foldl (fun c b => c ^^^ b) 0x7F ^^^ 0x0D]))] } ∧
      BodyStored body s t)

/-- `FRM.CKSUM` (R105, with R100): as `FRM.FRAME`, the checksum byte alone. What `BUF` holds afterwards is the model's
choice (log entry 7). -/
def Obligations.FrmCksumAnswersTheChecksum : Prop :=
  ∀ (body : Bytes) (s : State), Memory.wf s.buf →
    (s.ph = .body → exec (.frmCksum body) s =
      .next { s with blen := 0, rlen := 0, responses := s.responses ++ [.fault (.phaseFault .body)] }) ∧
    (s.ph = .idle → ∀ k, s.cfg.bufCap = some k → k < body.length → exec (.frmCksum body) s =
      .next { s with blen := 0, rlen := 0, responses := s.responses ++ [.fault (.capacityFault .buf)] }) ∧
    (s.ph = .idle → (∀ k, s.cfg.bufCap = some k → body.length ≤ k) → ∃ t, exec (.frmCksum body) s = .next t ∧
      t = { s with
        ck := 0x7F, buf := t.buf, blen := 0
        responses := s.responses ++ [.ok (.byte (body.foldl (fun c b => c ^^^ b) 0x7F ^^^ 0x0D))] } ∧
      BodyStored body s t)

/-- `FRM.START` (R102): opcode 0x32; `CK` is the seed and the frame is open, or `PhaseFault` where one is open. -/
def Obligations.FrmStartOpensAFrame : Prop :=
  ∀ s : State, decode (.cmd 0x32 []) = .ok .frmStart ∧ exec .frmStart s =
    match s.ph with
    | .idle => .next { s with ck := 0x7F, ph := .body, responses := s.responses ++ [.ok .unit] }
    | .body => .next { s with blen := 0, rlen := 0, responses := s.responses ++ [.fault (.phaseFault .body)] }

/-- `FRM.BYTE` (R103): opcode 0x33; the byte is folded into `CK` and passed on, or `PhaseFault` where no frame is open. -/
def Obligations.FrmByteFoldsAndPassesTheByte : Prop :=
  ∀ (b : Byte) (s : State), decode (.cmd 0x33 [.byte b]) = .ok (.frmByte b) ∧ exec (.frmByte b) s =
    match s.ph with
    | .body => .next { s with ck := s.ck ^^^ b, responses := s.responses ++ [.ok (.byte b)] }
    | .idle => .next { s with blen := 0, rlen := 0, responses := s.responses ++ [.fault (.phaseFault .idle)] }

/-- `FRM.END` (R104): opcode 0x34; the terminator and the finished checksum, `CK` the seed again and the frame closed, or
`PhaseFault` where no frame is open. -/
def Obligations.FrmEndClosesTheFrame : Prop :=
  ∀ s : State, decode (.cmd 0x34 []) = .ok .frmEnd ∧ exec .frmEnd s =
    match s.ph with
    | .body =>
      .next { s with ck := 0x7F, ph := .idle, responses := s.responses ++ [.ok (.bytes [0x0D, s.ck ^^^ 0x0D])] }
    | .idle => .next { s with blen := 0, rlen := 0, responses := s.responses ++ [.fault (.phaseFault .idle)] }

/-- Streamed and whole-body framing agree (R106): the run of `FRM.START`, one `FRM.BYTE` per byte and `FRM.END` answers
`Ok` at every step, returns exactly the bytes of `frame(B)`, and ends in the state it started from. That the host's
requests stand in a queue is the model's form (log entry 4). -/
def Obligations.StreamedFramingReturnsTheFramedTelegram : Prop :=
  ∀ (body : Bytes) (s : State), s.ph = .idle → s.ck = 0x7F →
    s.requests = (Instr.frmStart :: (body.map Instr.frmByte ++ [Instr.frmEnd])).map encode →
    ∃ rs : List Response, Sys2Proof.core.run (body.length + 2) s =
        .next { s with requests := [], responses := s.responses ++ rs } ∧
      (∀ r ∈ rs, ∃ x, r = .ok x) ∧ returnedBytes rs = frameOf body

/-- The laws of a framed telegram (R107), of the response of `FRM.FRAME`: two bytes longer than the body; the body first,
then 0x0D, then the fold; the exclusive-or of all its bytes is 0x7F; changing one bit of one byte breaks that, and
changing the same bit of two bytes does not. -/
def Obligations.FramedTelegramLaws : Prop :=
  ∀ (body : Bytes) (s : State), Memory.wf s.buf → s.ph = .idle → (∀ k, s.cfg.bufCap = some k → body.length ≤ k) →
    ∃ t fr, exec (.frmFrame body) s = .next t ∧ t.responses = s.responses ++ [.ok (.bytes fr)] ∧
      fr.length = body.length + 2 ∧ fr.take body.length = body ∧ fr[body.length]? = some 0x0D ∧
      fr[body.length + 1]? = some ((body ++ [0x0D]).foldl (fun c b => c ^^^ b) 0x7F) ∧ xorAll fr = 0x7F ∧
      (∀ (i k : Nat) (b : Byte), fr[i]? = some b → k < 8 → xorAll (fr.set i (b ^^^ 1#8 <<< k)) ≠ 0x7F) ∧
      ∀ (i j k : Nat) (a b : Byte), i ≠ j → fr[i]? = some a → fr[j]? = some b → k < 8 →
        xorAll ((fr.set i (a ^^^ 1#8 <<< k)).set j (b ^^^ 1#8 <<< k)) = 0x7F

/-- Seven-bit closure (R108): the frame of a body of char7 bytes is char7 bytes, and so is `CK` after every fold. -/
def Obligations.SevenBitBodiesGiveSevenBitFrames : Prop :=
  (∀ body : Bytes, (∀ b ∈ body, b ≤ 0x7F) → ∀ b ∈ frameOf body, b ≤ 0x7F) ∧
  ∀ (b : Byte) (s t : State), exec (.frmByte b) s = .next t → s.ck ≤ 0x7F → b ≤ 0x7F → t.ck ≤ 0x7F

/-! ### BODYENC: fields -/

/-- `FLD.DEC` (R121): for a value that fits, exactly `w` digit bytes that write the value in base 10; a width of 0, a
negative value and a value of more digits fault, in this order. What `ParamFault` records is the model's reading (log
entry 8). -/
def Obligations.FldDecAnswersTheDigitsOfTheValue : Prop :=
  ∀ (w : Nat) (v : IntVal) (s : State),
    (w < 1 → exec (.fldDec w v) s =
      .next { s with blen := 0, rlen := 0, responses := s.responses ++ [.fault (.paramFault (some 0) (some w))] }) ∧
    (1 ≤ w → v.toInt < 0 → exec (.fldDec w v) s =
      .next { s with
        blen := 0, rlen := 0, responses := s.responses ++ [.fault (.encodingError .decimalNegative v.toInt)] }) ∧
    (1 ≤ w → (10 : Int) ^ w ≤ v.toInt → exec (.fldDec w v) s =
      .next { s with
        blen := 0, rlen := 0, responses := s.responses ++ [.fault (.encodingError .decimalOverflow v.toInt)] }) ∧
    (1 ≤ w → 0 ≤ v.toInt → v.toInt < (10 : Int) ^ w → ∃ bs : Bytes,
      exec (.fldDec w v) s = .next { s with responses := s.responses ++ [.ok (.bytes bs)] } ∧ bs.length = w ∧
      (∀ b ∈ bs, 0x30 ≤ b ∧ b ≤ 0x39) ∧ bs.foldl (fun n b => n * 10 + (b.toNat - 0x30)) 0 = v.toInt.toNat)

/-- `FLD.TXT` (R122): the mapped text padded to the width on the side the alignment leaves; a width of 0 and a longer
text fault. What `ParamFault` records is the model's reading (log entry 8). -/
def Obligations.FldTxtAnswersThePaddedText : Prop :=
  ∀ (w : Nat) (pad : Char7) (align : Align) (t : Text) (s : State),
    (w < 1 → exec (.fldTxt w pad align t) s =
      .next { s with blen := 0, rlen := 0, responses := s.responses ++ [.fault (.paramFault (some 0) (some w))] }) ∧
    (1 ≤ w → w < t.length → exec (.fldTxt w pad align t) s =
      .next { s with
        blen := 0, rlen := 0, responses := s.responses ++ [.fault (.encodingError .textTooLong t.length)] }) ∧
    (1 ≤ w → t.length ≤ w → exec (.fldTxt w pad align t) s =
      .next { s with responses := s.responses ++ [.ok (.bytes
        (match align with
          | .left => sanitize t ++ List.replicate (w - t.length) (pad.setWidth 8)
          | .right => List.replicate (w - t.length) (pad.setWidth 8) ++ sanitize t))] })

/-- `FLD.RAW` (R124): as `FLD.TXT`, the bytes unchanged. What `ParamFault` records is the model's reading (log entry
8). -/
def Obligations.FldRawAnswersThePaddedBytes : Prop :=
  ∀ (w : Nat) (pad : Char7) (align : Align) (b : Bytes) (s : State),
    (w < 1 → exec (.fldRaw w pad align b) s =
      .next { s with blen := 0, rlen := 0, responses := s.responses ++ [.fault (.paramFault (some 0) (some w))] }) ∧
    (1 ≤ w → w < b.length → exec (.fldRaw w pad align b) s =
      .next { s with
        blen := 0, rlen := 0, responses := s.responses ++ [.fault (.encodingError .textTooLong b.length)] }) ∧
    (1 ≤ w → b.length ≤ w → exec (.fldRaw w pad align b) s =
      .next { s with responses := s.responses ++ [.ok (.bytes
        (match align with
          | .left => b ++ List.replicate (w - b.length) (pad.setWidth 8)
          | .right => List.replicate (w - b.length) (pad.setWidth 8) ++ b))] })

/-- The round trip of the decimal field (R136), for every width, and for the body of `LINE_NUMBER`. -/
def Obligations.DecimalFieldRoundTrips : Prop :=
  (∀ w v : Nat, 1 ≤ w → v < 10 ^ w → ∃ bs, fdec w v = .ok bs ∧ bs.length = w ∧ parseInt bs = .ok v) ∧
  (∀ (cfg : Config) (v : Nat) (body : Bytes), v ≤ 999 → bodyFixed cfg .lineNumber [.nat v] = .ok body →
    parseInt (body.drop (body.length - 3)) = .ok v)

/-- A field never widens, never takes an operand of another type, and holds the bytes its formatter answers (R62, R125,
R94): a laid-out field has exactly its width; a decimal field of an `Int`, or of a `Nat` below 2^31 (log entry 10), is
what `FLD.DEC` answers for it, a text field what `FLD.TXT` answers, a nibble field what `VDV.ENCW` answers, a raw field
what `FLD.RAW` answers, their faults included; any other pairing is a `ParamFault`. Which operand index the fault of a
width records is log entry 8. -/
def Obligations.LaidOutFieldHasItsWidthAndType : Prop :=
  ∀ (f : FieldSpec) (x : Operand),
    (∀ bs, layField f x = .ok bs → bs.length = f.width) ∧
    (match f.kind with
      | .decimal =>
        (∀ v, x = .int v → AnswersAs (layField f x) (.fldDec f.width v)) ∧
        (∀ n, x = .nat n → n < 2 ^ 31 → AnswersAs (layField f x) (.fldDec f.width (BitVec.ofNat 32 n))) ∧
        (∀ n, x = .nat n → 2 ^ 31 ≤ n → layField f x = .error (.paramFault none none)) ∧
        (((∃ t, x = .text t) ∨ ∃ b, x = .bytes b) → layField f x = .error (.paramFault none none))
      | .text =>
        (∀ t, x = .text t → AnswersAs (layField f x) (.fldTxt f.width f.padChar f.align t)) ∧
        ((∀ t, x ≠ .text t) → layField f x = .error (.paramFault none none))
      | .nibble =>
        (∀ n, x = .nat n → AnswersAs (layField f x) (.vdvEncw f.width n)) ∧
        ((∀ n, x ≠ .nat n) → layField f x = .error (.paramFault none none))
      | .raw =>
        (∀ b, x = .bytes b → AnswersAs (layField f x) (.fldRaw f.width f.padChar f.align b)) ∧
        ((∀ b, x ≠ .bytes b) → layField f x = .error (.paramFault none none)))

/-! ### BODYENC: bodies -/

/-- `ENC.FIXED` (R126): prefix and laid-out fields in order, staged in `BUF` from address 0. What `BUF` holds after the
transaction is the model's choice (log entry 7). -/
def Obligations.EncFixedAnswersPrefixAndFields : Prop :=
  ∀ (ds : DsId) (params : List Operand) (s : State) (row : Row) (fields : List FieldSpec) (pieces : List Bytes),
    Memory.wf s.buf → dsRow s.cfg ds = some row → row.shape = .fixed fields → params.length = fields.length →
    List.Forall₂ (fun fx piece => layField fx.1 fx.2 = .ok piece) (fields.zip params) pieces →
    (∀ k, s.cfg.bufCap = some k → row.pre.length + pieces.flatten.length ≤ k) →
    ∃ t, exec (.encFixed ds params) s = .next t ∧
      t = { s with
        buf := t.buf, blen := 0
        responses := s.responses ++ [.ok (.bytes (row.pre.map charByte ++ pieces.flatten))] } ∧
      BodyStored (row.pre.map charByte ++ pieces.flatten) s t

/-- `ENC.BLOCK` (R128, R129): prefix, count nibble, mapped text, spaces to the end of the last block, the count being the
least that holds the text; more than 15 blocks fault. What `BUF` holds afterwards is the model's choice (log entry 7). -/
def Obligations.EncBlockAnswersCountedPaddedText : Prop :=
  ∀ (ds : DsId) (text : Text) (s : State) (row : Row) (size : BlockSize),
    Memory.wf s.buf → dsRow s.cfg ds = some row → row.shape = .block size →
    ∃ n, text.length ≤ n * size.bytes ∧ n * size.bytes < text.length + size.bytes ∧
      (15 < n → exec (.encBlock ds text) s =
        .next { s with
          blen := 0, rlen := 0, responses := s.responses ++ [.fault (.encodingError .blockCountOverflow n)] }) ∧
      (n ≤ 15 → (∀ k, s.cfg.bufCap = some k → row.pre.length + 1 + n * size.bytes ≤ k) →
        ∃ t body, exec (.encBlock ds text) s = .next t ∧
          body = row.pre.map charByte ++ [0x30 ||| BitVec.ofNat 8 n] ++ sanitize text ++
            List.replicate (n * size.bytes - text.length) 0x20 ∧
          t = { s with buf := t.buf, blen := 0, responses := s.responses ++ [.ok (.bytes body)] } ∧
          BodyStored body s t)

/-- `ENC.LPCONN` (R68, R130): `LPCONN_COMPOSE` raises its own fault, or answers a composite that holds the operands in
order and, outside them, 0x03, 0x04, 0x05 once each in order, with the configured gaps where these meet the constraint;
it is counted and padded as block text. That an instantiation is gaps around the operands or one of the faults of
`LpFault`, and what stands for gaps that break the constraint, is the model's choice (log entry 12), and so is what
`BUF` holds afterwards (log entry 7). -/
def Obligations.EncLpconnAnswersCountedComposite : Prop :=
  ∀ (ds : DsId) (stopId : Operand) (stopText changeText : Text) (s : State) (row : Row) (spec : FieldSpec)
    (size : BlockSize) (idBytes : Bytes),
    Memory.wf s.buf → dsRow s.cfg ds = some row → row.shape = .lpconn spec size → layField spec stopId = .ok idBytes →
    match (match s.cfg.lpCompose with
      | .gaps g => Except.ok g
      | .unknown k => Config.openCompose k row stopId stopText changeText) with
    | .error f => exec (.encLpconn ds stopId stopText changeText) s =
        .next { s with
          blen := 0, rlen := 0
          responses := s.responses ++ [.fault (match f with
            | .encoding sub v => .encodingError sub v
            | .param i x => .paramFault (some i) x)] }
    | .ok g₀ => ∃ (g : LpGaps) (c : Bytes) (n : Nat),
      c = g.before ++ idBytes ++ g.afterId ++ sanitize stopText ++ g.afterStop ++ sanitize changeText ++ g.afterChange ∧
      (g.before ++ g.afterId ++ g.afterStop ++ g.afterChange).filter
        (fun b => b = 0x03 || b = 0x04 || b = 0x05) = [0x03, 0x04, 0x05] ∧
      (∀ b ∈ g.before ++ g.afterId ++ g.afterStop ++ g.afterChange, b ≤ 0x7F) ∧
      ((g₀.before ++ g₀.afterId ++ g₀.afterStop ++ g₀.afterChange).filter
          (fun b => b = 0x03 || b = 0x04 || b = 0x05) = [0x03, 0x04, 0x05] →
        (∀ b ∈ g₀.before ++ g₀.afterId ++ g₀.afterStop ++ g₀.afterChange, b ≤ 0x7F) → g = g₀) ∧
      1 ≤ n ∧ c.length ≤ n * size.bytes ∧ n * size.bytes < c.length + size.bytes ∧
      (15 < n → exec (.encLpconn ds stopId stopText changeText) s =
        .next { s with
          blen := 0, rlen := 0, responses := s.responses ++ [.fault (.encodingError .blockCountOverflow n)] }) ∧
      (n ≤ 15 → (∀ k, s.cfg.bufCap = some k → row.pre.length + 1 + n * size.bytes ≤ k) →
        ∃ t body, exec (.encLpconn ds stopId stopText changeText) s = .next t ∧
          body = row.pre.map charByte ++ [0x30 ||| BitVec.ofNat 8 n] ++ c ++
            List.replicate (n * size.bytes - c.length) 0x20 ∧
          t = { s with buf := t.buf, blen := 0, responses := s.responses ++ [.ok (.bytes body)] } ∧
          BodyStored body s t)

/-- `ENC.LSA` (R69, R132): prefix, half the inner length rounded up as a nibble, the inner fields unpadded; more than 30
inner bytes fault. What `BUF` holds afterwards is the model's choice (log entry 7). -/
def Obligations.EncLsaAnswersLengthPrefixedFields : Prop :=
  ∀ (ds : DsId) (params : List Operand) (s : State) (row : Row) (fields : List FieldSpec) (pieces : List Bytes),
    Memory.wf s.buf → dsRow s.cfg ds = some row → row.shape = .lsa fields → params.length = fields.length →
    List.Forall₂ (fun fx piece => layField fx.1 fx.2 = .ok piece) (fields.zip params) pieces →
    (30 < pieces.flatten.length → exec (.encLsa ds params) s =
      .next { s with
        blen := 0, rlen := 0
        responses := s.responses ++
          [.fault (.encodingError .lengthOverflow ((pieces.flatten.length + 1) / 2 : Nat))] }) ∧
    (pieces.flatten.length ≤ 30 →
      (∀ k, s.cfg.bufCap = some k → row.pre.length + 1 + pieces.flatten.length ≤ k) →
      ∃ t body, exec (.encLsa ds params) s = .next t ∧
        body = row.pre.map charByte ++ [0x30 ||| BitVec.ofNat 8 ((pieces.flatten.length + 1) / 2)] ++ pieces.flatten ∧
        t = { s with buf := t.buf, blen := 0, responses := s.responses ++ [.ok (.bytes body)] } ∧
        BodyStored body s t)

/-- The two pinned `FIXED` rows (R127) in every configuration whose body buffer holds four bytes. -/
def Obligations.PinnedFixedRowsEncode : Prop :=
  ∀ s : State, (∀ k, s.cfg.bufCap = some k → 4 ≤ k) →
    (∀ (v : Nat) (x : Operand), v ≤ 999 → x = .nat v ∨ x = .int (BitVec.ofNat 32 v) →
      ∃ t, exec (.encFixed .lineNumber [x]) s = .next t ∧
      t.responses = s.responses ++ [.ok (.bytes
        [0x6C, 0x30 + BitVec.ofNat 8 (v / 100), 0x30 + BitVec.ofNat 8 (v / 10 % 10), 0x30 + BitVec.ofNat 8 (v % 10)])]) ∧
    (∀ (v : Nat) (x : Operand), 999 < v → v < 2 ^ 31 → x = .nat v ∨ x = .int (BitVec.ofNat 32 v) →
      ∃ t, exec (.encFixed .lineNumber [x]) s = .next t ∧
      t.responses = s.responses ++ [.fault (.encodingError .decimalOverflow v)]) ∧
    (∀ v : IntVal, v.toInt < 0 → ∃ t, exec (.encFixed .lineNumber [.int v]) s = .next t ∧
      t.responses = s.responses ++ [.fault (.encodingError .decimalNegative v.toInt)]) ∧
    (∀ v : Nat, v ≤ 255 → ∃ t, exec (.encFixed .lpNextStopId [.nat v]) s = .next t ∧
      t.responses = s.responses ++ [.ok (.bytes
        [0x78, 0x5A, 0x30 ||| BitVec.ofNat 8 (v / 16), 0x30 ||| BitVec.ofNat 8 (v % 16)])]) ∧
    (∀ v : Nat, 255 < v → ∃ t, exec (.encFixed .lpNextStopId [.nat v]) s = .next t ∧
      t.responses = s.responses ++ [.fault (.encodingError .nibbleRange v)])

/-- The order of the encoders' checks (R133, R128, R130). For the two encoders of a field list: unknown data set, wrong
shape, wrong number of operands, the first field that does not fit, the capacity. For `ENC.BLOCK` and `ENC.LPCONN`:
unknown data set, wrong shape, the stop id's own fault, the capacity. That the stop id's fault comes before a fault of
`LPCONN_COMPOSE`'s own is the model's reading (log entry 12). No body is staged, `BUF` being as it was, which is the
model's choice (log entry 17), as is which index a `ParamFault` records (log entry 8). -/
def Obligations.EncodersReportTheFirstFault : Prop :=
  (∀ (s : State) (ds : DsId) (params : List Operand) (i : Instr), i = .encFixed ds params ∨ i = .encLsa ds params →
    (dsRow s.cfg ds = none → exec i s =
      .next { s with blen := 0, rlen := 0, responses := s.responses ++ [.fault (.unknownDs ds)] }) ∧
    (∀ row, dsRow s.cfg ds = some row →
      ((∀ fs, row.shape = .fixed fs → i = .encLsa ds params ∨ params.length ≠ fs.length) →
        (∀ fs, row.shape = .lsa fs → i = .encFixed ds params ∨ params.length ≠ fs.length) →
        exec i s = .next { s with
          blen := 0, rlen := 0
          responses := s.responses ++ [.fault (.paramFault (some (Config.freeIndex s.cfg (encode i))) none)] }) ∧
      (∀ (fs₁ fs₂ : List FieldSpec) (f : FieldSpec) (xs₁ xs₂ : List Operand) (x : Operand) (c : Cause),
        (row.shape = .fixed (fs₁ ++ f :: fs₂) ∧ i = .encFixed ds params ∨
          row.shape = .lsa (fs₁ ++ f :: fs₂) ∧ i = .encLsa ds params) →
        params = xs₁ ++ x :: xs₂ → xs₁.length = fs₁.length → xs₂.length = fs₂.length →
        (∀ fx ∈ fs₁.zip xs₁, ∃ bs, layField fx.1 fx.2 = .ok bs) → layField f x = .error c →
        exec i s = .next { s with
          blen := 0, rlen := 0, responses := s.responses ++ [.fault (settleFor s.cfg (encode i) c)] }) ∧
      (∀ (fs : List FieldSpec) (pieces : List Bytes) (k : Nat), params.length = fs.length →
        List.Forall₂ (fun fx piece => layField fx.1 fx.2 = .ok piece) (fs.zip params) pieces →
        s.cfg.bufCap = some k →
        (row.shape = .fixed fs ∧ i = .encFixed ds params ∧ k < row.pre.length + pieces.flatten.length ∨
          row.shape = .lsa fs ∧ i = .encLsa ds params ∧ pieces.flatten.length ≤ 30 ∧
            k < row.pre.length + 1 + pieces.flatten.length) →
        exec i s =
          .next { s with blen := 0, rlen := 0, responses := s.responses ++ [.fault (.capacityFault .buf)] }))) ∧
  (∀ (s : State) (ds : DsId) (text : Text),
    (dsRow s.cfg ds = none → exec (.encBlock ds text) s =
      .next { s with blen := 0, rlen := 0, responses := s.responses ++ [.fault (.unknownDs ds)] }) ∧
    (∀ row, dsRow s.cfg ds = some row →
      ((∀ size, row.shape ≠ .block size) → exec (.encBlock ds text) s =
        .next { s with
          blen := 0, rlen := 0
          responses := s.responses ++
            [.fault (.paramFault (some (Config.freeIndex s.cfg (encode (.encBlock ds text)))) none)] }) ∧
      (∀ size n k, row.shape = .block size → text.length ≤ n * size.bytes → n * size.bytes < text.length + size.bytes →
        n ≤ 15 → s.cfg.bufCap = some k → k < row.pre.length + 1 + n * size.bytes → exec (.encBlock ds text) s =
        .next { s with blen := 0, rlen := 0, responses := s.responses ++ [.fault (.capacityFault .buf)] }))) ∧
  ∀ (s : State) (ds : DsId) (stopId : Operand) (stopText changeText : Text) (i : Instr),
    i = .encLpconn ds stopId stopText changeText →
    (dsRow s.cfg ds = none → exec i s =
      .next { s with blen := 0, rlen := 0, responses := s.responses ++ [.fault (.unknownDs ds)] }) ∧
    (∀ row, dsRow s.cfg ds = some row →
      ((∀ spec size, row.shape ≠ .lpconn spec size) → exec i s =
        .next { s with
          blen := 0, rlen := 0
          responses := s.responses ++ [.fault (.paramFault (some (Config.freeIndex s.cfg (encode i))) none)] }) ∧
      (∀ spec size c, row.shape = .lpconn spec size → layField spec stopId = .error c → exec i s =
        .next { s with
          blen := 0, rlen := 0
          responses := s.responses ++ [.fault
            (if c = .paramFault none none then .paramFault (some 1) none else settleFor s.cfg (encode i) c)] }) ∧
      (∀ spec size c n k, row.shape = .lpconn spec size →
        composeLp s.cfg row spec stopId stopText changeText = .ok c →
        c.length ≤ n * size.bytes → n * size.bytes < c.length + size.bytes → n ≤ 15 →
        s.cfg.bufCap = some k → k < row.pre.length + 1 + n * size.bytes → exec i s =
        .next { s with blen := 0, rlen := 0, responses := s.responses ++ [.fault (.capacityFault .buf)] }))

/-- `encode_body` is the encoder of the row's shape (R134): what the transfer operations encode is what the shape's `ENC`
operation answers, and the fault they report is the fault it reports; an unknown data set is `UnknownDS`, and operands
that cannot be spread over a `BLOCK` or `LPCONN` encoder are a `ParamFault`. Which index a fault records is log entry
8. -/
def Obligations.EncodeBodyIsTheEncoderOfTheShape : Prop :=
  ∀ (s : State) (ds : DsId) (params : List Operand),
    (dsRow s.cfg ds = none → encodeBody s.cfg ds params = .error (.unknownDs ds)) ∧
    ∀ row, dsRow s.cfg ds = some row →
      match row.shape with
      | .fixed _ => EncodesAs s (encodeBody s.cfg ds params) (.encFixed ds params)
      | .lsa _ => EncodesAs s (encodeBody s.cfg ds params) (.encLsa ds params)
      | .block _ =>
        (∀ x, params = [.text x] → EncodesAs s (encodeBody s.cfg ds params) (.encBlock ds x)) ∧
        ((∀ x, params ≠ [.text x]) → encodeBody s.cfg ds params = .error (.paramFault none none))
      | .lpconn _ _ =>
        (∀ x a b, params = [x, .text a, .text b] →
          EncodesAs s (encodeBody s.cfg ds params) (.encLpconn ds x a b)) ∧
        ((∀ x a b, params ≠ [x, .text a, .text b]) → encodeBody s.cfg ds params = .error (.paramFault none none))

/-- Every byte of a body built without `raw` fields is a char7 (R135), whatever the shape. That a composition's own bytes
are char7 is read from R135 (log entry 12). -/
def Obligations.BodiesWithoutRawFieldsAreSevenBit : Prop :=
  ∀ (cfg : Config) (ds : DsId) (params : List Operand) (row : Row) (body : Bytes),
    dsRow cfg ds = some row → encodeBody cfg ds params = .ok body →
    (match row.shape with
      | .fixed fs => ∀ f ∈ fs, f.kind ≠ .raw
      | .lsa fs => ∀ f ∈ fs, f.kind ≠ .raw
      | .block _ => True
      | .lpconn spec _ => spec.kind ≠ .raw) →
    ∀ b ∈ body, b ≤ 0x7F

/-! ### REPLYDEC -/

/-- `RX.STRIP` (R141): opcode 0x50; the last two bytes are dropped, whatever they are; fewer than two fault. -/
def Obligations.RxStripDropsTheTrailer : Prop :=
  (∀ raw : Bytes, decode (.cmd 0x50 [.value (.bytes raw)]) = .ok (.rxStrip raw)) ∧
  (∀ (payload : Bytes) (t c : Byte) (s : State), exec (.rxStrip (payload ++ [t, c])) s =
    .next { s with responses := s.responses ++ [.ok (.bytes payload)] }) ∧
  (∀ (raw : Bytes) (s : State), raw.length < 2 → exec (.rxStrip raw) s =
    .next { s with
      blen := 0, rlen := 0, responses := s.responses ++ [.fault (.parseError .shortReply (.length raw.length))] })

/-- `DEC.STATUS` (R142): opcode 0x51; 0x32 is `searching` in every configuration, an entry of the table gives its
symbol, every other byte passes through. -/
def Obligations.DecStatusLooksUpOrPassesThrough : Prop :=
  ∀ (c : Byte) (s : State), decode (.cmd 0x51 [.byte c]) = .ok (.decStatus c) ∧ ∃ st : Status,
    exec (.decStatus c) s = .next { s with responses := s.responses ++ [.ok (.status st)] } ∧
    (c = 0x32 → st = .symbol .searching) ∧
    (∀ sym, c ≠ 0x32 → s.cfg.openStatus.lookup c = some sym → st = .symbol sym) ∧
    (c ≠ 0x32 → s.cfg.openStatus.lookup c = none → st = .raw c)

/-- `DEC.BEACON` (R145): eight nibble characters as a number below 2^32; the first byte outside the alphabet and another
length fault. What `ParamFault` records is the model's reading (log entry 8). -/
def Obligations.DecBeaconAnswersTheIdentifier : Prop :=
  ∀ (cs : Bytes) (s : State),
    (cs.length ≠ 8 → exec (.decBeacon cs) s =
      .next { s with
        blen := 0, rlen := 0, responses := s.responses ++ [.fault (.paramFault (some 0) (some cs.length))] }) ∧
    (cs.length = 8 → (∀ c ∈ cs, c.extractLsb' 4 4 = 0x3#4) → ∃ n < 2 ^ 32,
      exec (.decBeacon cs) s = .next { s with responses := s.responses ++ [.ok (.nat n)] } ∧
      n = cs.foldl (fun v c => v * 16 + (c.extractLsb' 0 4).toNat) 0) ∧
    (∀ (before after : Bytes) (c : Byte), cs = before ++ c :: after → cs.length = 8 →
      (∀ b ∈ before, b.extractLsb' 4 4 = 0x3#4) → c.extractLsb' 4 4 ≠ 0x3#4 → exec (.decBeacon cs) s =
      .next { s with blen := 0, rlen := 0, responses := s.responses ++ [.fault (.invalidSymbol c)] })

/-- The two version decoders stay different (R146, R147, R148): `DEC.VERSTR` answers its bytes unchanged; `DEC.VERINT` the
number that one or more digits write in base 10, the first byte that is no digit and the empty slice faulting. What the
empty slice records is the model's reading (log entry 9). -/
def Obligations.VersionDecodersStayDifferent : Prop :=
  ∀ s : State,
    (∀ b : Bytes, exec (.decVerstr b) s =
      .next { s with responses := s.responses ++ [.ok (.value (.str b))] }) ∧
    (exec (.decVerint []) s = .next { s with
      blen := 0, rlen := 0, responses := s.responses ++ [.fault (.parseError .notANumber (.length 0))] }) ∧
    (∀ b : Bytes, b ≠ [] → (∀ c ∈ b, 0x30 ≤ c ∧ c ≤ 0x39) → exec (.decVerint b) s =
      .next { s with
        responses := s.responses ++ [.ok (.value (.num (b.foldl (fun n c => n * 10 + (c.toNat - 0x30)) 0)))] }) ∧
    (∀ (before after : Bytes) (c : Byte), (∀ x ∈ before, 0x30 ≤ x ∧ x ≤ 0x39) → (c < 0x30 ∨ 0x39 < c) →
      exec (.decVerint (before ++ c :: after)) s = .next { s with
        blen := 0, rlen := 0, responses := s.responses ++ [.fault (.parseError .notANumber (.byte c))] })

/-- `DEC.REPLY` without a whole reply (R150, R151, R152): no reply, an empty one and a short one are `NoReply`; a reply
longer than expected, a data set without a reply and an unknown one fault. What `RBUF` holds afterwards is the model's
choice (log entry 7), and so is which index a `ParamFault` records (log entry 8). -/
def Obligations.DecReplyWithoutAWholeReply : Prop :=
  ∀ (ds : DsId) (s : State),
    (∀ r, dsRow s.cfg ds = none → exec (.decReply ds r) s =
      .next { s with blen := 0, rlen := 0, responses := s.responses ++ [.fault (.unknownDs ds)] }) ∧
    (∀ r row, dsRow s.cfg ds = some row → row.reply = none → exec (.decReply ds r) s =
      .next { s with
        blen := 0, rlen := 0
        responses := s.responses ++
          [.fault (.paramFault (some (Config.freeIndex s.cfg (encode (.decReply ds r)))) none)] }) ∧
    (∀ row rp, dsRow s.cfg ds = some row → row.reply = some rp →
      exec (.decReply ds none) s = .next { s with responses := s.responses ++ [.ok (.reply .noReply)] } ∧
      (∀ bs : Bytes, Memory.wf s.rbuf → bs.length < rp.rlen → (∀ k, s.cfg.rbufCap = some k → bs.length ≤ k) →
        ∃ t, exec (.decReply ds (some bs)) s = .next t ∧
          t = { s with rbuf := t.rbuf, rlen := 0, responses := s.responses ++ [.ok (.reply .noReply)] } ∧
          ∀ a, memRead t.rbuf a = (bs[a]?).getD (memRead s.rbuf a)) ∧
      (∀ bs : Bytes, rp.rlen < bs.length → exec (.decReply ds (some bs)) s =
        .next { s with
          blen := 0, rlen := 0, responses := s.responses ++ [.fault (.paramFault (some 1) none)] }) ∧
      (∀ (bs : Bytes) (k : Nat), bs.length ≤ rp.rlen → s.cfg.rbufCap = some k → k < bs.length →
        exec (.decReply ds (some bs)) s = .next { s with
          blen := 0, rlen := 0, responses := s.responses ++ [.fault (.capacityFault .rbuf)] }))

/-- `DEC.REPLY` of a whole reply (R149, R152, R153): all fields of the row, each with the value of the last field of its
name (log entry 14); or the fault of the first field that does not decode. A field's slice is the `width` bytes of the
payload from its offset, and its value is what `DEC.STATUS`, `DEC.VERSTR`, `DEC.VERINT` or `VDV.DECW` answers for it. The
reply is staged in `RBUF` from address 0; what `RBUF` holds afterwards is the model's choice (log entry 7). -/
def Obligations.DecReplyAnswersEveryFieldOrTheFirstFault : Prop :=
  ∀ (ds : DsId) (s : State) (row : Row) (rp : ReplySpec) (bs : Bytes),
    Memory.wf s.rbuf → dsRow s.cfg ds = some row → row.reply = some rp → bs.length = rp.rlen →
    (∀ k, s.cfg.rbufCap = some k → bs.length ≤ k) →
    (∀ f ∈ rp.rfields, ∀ slice : Bytes, slice = ((bs.take (rp.rlen - 2)).drop f.offset).take f.width →
      slice.length = f.width ∧
      match f.kind, decField s.cfg f (bs.take (rp.rlen - 2)) with
      | .status, v => ∃ c st, slice = [c] ∧ v = .ok (.statusV st) ∧
          exec (.decStatus c) s = .next { s with responses := s.responses ++ [.ok (.status st)] }
      | .raw, v => v = .ok (.str slice) ∧
          exec (.decVerstr slice) s = .next { s with responses := s.responses ++ [.ok (.value (.str slice))] }
      | .int, .ok v => (∃ n, v = .num n) ∧
          exec (.decVerint slice) s = .next { s with responses := s.responses ++ [.ok (.value v)] }
      | .int, .error c => exec (.decVerint slice) s =
          .next { s with blen := 0, rlen := 0, responses := s.responses ++ [.fault c] }
      | .nibble, .ok v => ∃ n, v = .num n ∧
          exec (.vdvDecw slice) s = .next { s with responses := s.responses ++ [.ok (.nat n)] }
      | .nibble, .error c => exec (.vdvDecw slice) s =
          .next { s with blen := 0, rlen := 0, responses := s.responses ++ [.fault c] }) ∧
    (∀ vs : List Value,
      List.Forall₂ (fun f v => decField s.cfg f (bs.take (rp.rlen - 2)) = .ok v) rp.rfields vs →
      ∃ t m, exec (.decReply ds (some bs)) s = .next t ∧
        t = { s with rbuf := t.rbuf, rlen := 0, responses := s.responses ++ [.ok (.reply (.fields m))] } ∧
        (∀ a, memRead t.rbuf a = (bs[a]?).getD (memRead s.rbuf a)) ∧
        ∀ name, m.lookup name = ((rp.rfields.zip vs).reverse.find? fun fv => fv.1.name = name).map (fun fv => fv.2)) ∧
    (∀ (fs₁ fs₂ : List ReplyField) (f : ReplyField) (c : Cause), rp.rfields = fs₁ ++ f :: fs₂ →
      (∀ g ∈ fs₁, ∃ v, decField s.cfg g (bs.take (rp.rlen - 2)) = .ok v) →
      decField s.cfg f (bs.take (rp.rlen - 2)) = .error c →
      ∃ t, exec (.decReply ds (some bs)) s = .next t ∧
        t = { s with
          rbuf := t.rbuf, blen := 0, rlen := 0, responses := s.responses ++ [.fault c] } ∧
        ∀ a, memRead t.rbuf a = (bs[a]?).getD (memRead s.rbuf a))

/-- Checksum blindness (R153, R141, R180): a reply decodes the same whatever its last two bytes are. -/
def Obligations.ReplyTrailerIsNotLookedAt : Prop :=
  ∀ (ds : DsId) (s a b : State) (row : Row) (rp : ReplySpec) (payload : Bytes) (t c t' c' : Byte),
    Memory.wf s.rbuf → dsRow s.cfg ds = some row → row.reply = some rp → payload.length + 2 = rp.rlen →
    exec (.decReply ds (some (payload ++ [t, c]))) s = .next a →
    exec (.decReply ds (some (payload ++ [t', c']))) s = .next b →
    a.responses = b.responses

/-! ### Transfers -/

/-- `XFER.SEND` (R162): for a data set without a reply whose operands encode, exactly one framed telegram is appended to
`OUT`, and the response is TRANSPORT's answer; `CK` and `BLEN` are quiescent. What `BUF` holds afterwards is the
model's choice (log entry 7). -/
def Obligations.XferSendTransmitsOneFrame : Prop :=
  ∀ (ds : DsId) (params : List Operand) (s : State) (row : Row) (body : Bytes),
    Memory.wf s.buf → s.ph = .idle → dsRow s.cfg ds = some row → row.reply = none →
    encodeBody s.cfg ds params = .ok body →
    ∃ t, exec (.xferSend ds params) s = .next t ∧
      t = { s with
        ck := 0x7F, buf := t.buf, blen := 0, rlen := t.rlen, out := s.out ++ [frameOf body]
        sendAnswers := s.sendAnswers.tail
        drawn := if s.sendAnswers = [] then s.drawn + 1 else s.drawn
        responses := t.responses } ∧
      BodyStored body s t ∧
      (nextSend s = .success → t.rlen = s.rlen ∧ t.responses = s.responses ++ [.ok .unit]) ∧
      (nextSend s = .ioError → t.rlen = 0 ∧ t.responses = s.responses ++ [.fault (.transportError .send)])

/-- `XFER.SENDRAW` (R163): the body as given, framed, is appended to `OUT`; a body that does not fit faults and sends
nothing. What `BUF` holds afterwards is the model's choice (log entry 7). -/
def Obligations.XferSendrawTransmitsTheBodyFramed : Prop :=
  ∀ (body : Bytes) (s : State), Memory.wf s.buf → s.ph = .idle →
    (∀ k, s.cfg.bufCap = some k → k < body.length → exec (.xferSendraw body) s =
      .next { s with blen := 0, rlen := 0, responses := s.responses ++ [.fault (.capacityFault .buf)] }) ∧
    ((∀ k, s.cfg.bufCap = some k → body.length ≤ k) → ∃ t, exec (.xferSendraw body) s = .next t ∧
      t = { s with
        ck := 0x7F, buf := t.buf, blen := 0, rlen := t.rlen, out := s.out ++ [frameOf body]
        sendAnswers := s.sendAnswers.tail
        drawn := if s.sendAnswers = [] then s.drawn + 1 else s.drawn
        responses := t.responses } ∧
      BodyStored body s t ∧
      (nextSend s = .success → t.rlen = s.rlen ∧ t.responses = s.responses ++ [.ok .unit]) ∧
      (nextSend s = .ioError → t.rlen = 0 ∧ t.responses = s.responses ++ [.fault (.transportError .send)]))

/-- `XFER.QUERY` (R164): one framed telegram, then at most one `receive`. A failed `send` is `TransportError(send)` and
takes no receive answer; else a failed `receive` is `TransportError(receive)`, a timeout and fewer bytes than expected
are `NoReply`, and bytes answer what `DEC.REPLY` answers for them. Of a listed answer longer than the expected length,
which R161 says does not occur, the model takes the first bytes (log entry 3). What `BUF` and `RBUF` hold afterwards is
the model's choice (log entry 7). -/
def Obligations.XferQuerySendsOnceAndReceivesOnce : Prop :=
  ∀ (ds : DsId) (params : List Operand) (s : State) (row : Row) (rp : ReplySpec) (body : Bytes),
    Memory.wf s.buf → Memory.wf s.rbuf → s.ph = .idle → dsRow s.cfg ds = some row → row.reply = some rp →
    (∀ k, s.cfg.rbufCap = some k → rp.rlen ≤ k) → encodeBody s.cfg ds params = .ok body →
    ∃ t r, exec (.xferQuery ds params) s = .next t ∧
      t = { s with
        ck := 0x7F, buf := t.buf, blen := 0, rbuf := t.rbuf, rlen := t.rlen, out := s.out ++ [frameOf body]
        sendAnswers := s.sendAnswers.tail, recvAnswers := t.recvAnswers, drawn := t.drawn
        responses := s.responses ++ [r] } ∧
      (∀ a, memRead t.buf a = (body[a]?).getD (memRead s.buf a)) ∧
      (nextSend s = .ioError →
        r = .fault (.transportError .send) ∧ t.recvAnswers = s.recvAnswers ∧ t.rbuf = s.rbuf ∧ t.rlen = 0) ∧
      (nextSend s = .success → t.recvAnswers = s.recvAnswers.tail ∧
        (nextRecv s = .ioError → r = .fault (.transportError .receive) ∧ t.rbuf = s.rbuf ∧ t.rlen = 0) ∧
        (nextRecv s = .timeout → r = .ok (.reply .noReply) ∧ t.rbuf = s.rbuf ∧ t.rlen = s.rlen) ∧
        (∀ bs, nextRecv s = .bytes bs → t.rlen = 0 ∧
          (∀ a, memRead t.rbuf a = ((bs.take rp.rlen)[a]?).getD (memRead s.rbuf a)) ∧
          (bs.length < rp.rlen → r = .ok (.reply .noReply)) ∧
          ∃ u, exec (.decReply ds (some (bs.take rp.rlen))) s = .next u ∧ u.responses = s.responses ++ [r]))

/-- The checks of the two catalog transfers before anything is sent (R162, R164, R181): the data set, its reply, the
reply buffer, the encoder's faults; nothing is appended to `OUT` and TRANSPORT is not called. That `BUF` is as it was is
the model's choice (log entry 17), and so is which index a `ParamFault` records (log entry 8). -/
def Obligations.TransferFaultsBeforeSendSendNothing : Prop :=
  ∀ (ds : DsId) (params : List Operand) (s : State), s.ph = .idle →
    (dsRow s.cfg ds = none → ∀ i, i = .xferSend ds params ∨ i = .xferQuery ds params → exec i s =
      .next { s with blen := 0, rlen := 0, responses := s.responses ++ [.fault (.unknownDs ds)] }) ∧
    (∀ row rp, dsRow s.cfg ds = some row → row.reply = some rp →
      (exec (.xferSend ds params) s = .next { s with
        blen := 0, rlen := 0
        responses := s.responses ++
          [.fault (.paramFault (some (Config.freeIndex s.cfg (encode (.xferSend ds params)))) none)] }) ∧
      (∀ k, s.cfg.rbufCap = some k → k < rp.rlen → exec (.xferQuery ds params) s =
        .next { s with blen := 0, rlen := 0, responses := s.responses ++ [.fault (.capacityFault .rbuf)] }) ∧
      (∀ c, (∀ k, s.cfg.rbufCap = some k → rp.rlen ≤ k) → encodeBody s.cfg ds params = .error c →
        exec (.xferQuery ds params) s = .next { s with
          blen := 0, rlen := 0
          responses := s.responses ++ [.fault (settleFor s.cfg (encode (.xferQuery ds params)) c)] })) ∧
    (∀ row, dsRow s.cfg ds = some row → row.reply = none →
      (exec (.xferQuery ds params) s = .next { s with
        blen := 0, rlen := 0
        responses := s.responses ++
          [.fault (.paramFault (some (Config.freeIndex s.cfg (encode (.xferQuery ds params)))) none)] }) ∧
      (∀ c, encodeBody s.cfg ds params = .error c → exec (.xferSend ds params) s = .next { s with
        blen := 0, rlen := 0
        responses := s.responses ++ [.fault (settleFor s.cfg (encode (.xferSend ds params)) c)] }))

/-! ### Faults -/

/-- `PhaseFault` (R176): the six operations that need `IDLE` and the two that need `BODY`; `CK` and `PH` are left as they
were. -/
def Obligations.PhaseFaultKeepsTheOpenFrame : Prop :=
  (∀ (s : State) (ds : DsId) (params : List Operand) (body : Bytes) (i : Instr), s.ph = .body →
    i ∈ [Instr.frmFrame body, .frmCksum body, .frmStart, .xferSend ds params, .xferSendraw body, .xferQuery ds params] →
    exec i s = .next { s with blen := 0, rlen := 0, responses := s.responses ++ [.fault (.phaseFault .body)] }) ∧
  (∀ (s : State) (b : Byte) (i : Instr), s.ph = .idle → i ∈ [Instr.frmByte b, .frmEnd] →
    exec i s = .next { s with blen := 0, rlen := 0, responses := s.responses ++ [.fault (.phaseFault .idle)] })

/-- Fault entry (R178), over all instructions: from a quiescent state, a transaction whose response is a fault leaves
every register as it was; only a transfer operation can have appended to `OUT` or taken an answer of TRANSPORT. -/
def Obligations.FaultsLeaveTheRegisters : Prop :=
  ∀ (i : Instr) (s t : State) (c : Cause), Quiescent s → exec i s = .next t →
    t.responses = s.responses ++ [.fault c] →
    t.ck = s.ck ∧ t.ph = s.ph ∧ t.blen = 0 ∧ t.rlen = 0 ∧ t.cfg = s.cfg ∧
      ((isTransfer i = false ∨ faultCode c = 0x02 ∨ faultCode c = 0x05 ∨ faultCode c = 0x06 ∨ faultCode c = 0x08) →
        t.out = s.out ∧ t.sendAnswers = s.sendAnswers ∧ t.recvAnswers = s.recvAnswers ∧ t.drawn = s.drawn)

/-- The response codes and sub-cause numbers (R170, R172, R173). -/
def Obligations.FaultCodesAreTheTable : Prop :=
  (∀ r, responseCode (.ok r) = 0x00) ∧ (∀ c, responseCode (.fault (.invalidSymbol c)) = 0x01) ∧
  (∀ e v, responseCode (.fault (.encodingError e v)) = 0x02) ∧
  (∀ p x, responseCode (.fault (.parseError p x)) = 0x03) ∧
  (∀ k, responseCode (.fault (.transportError k)) = 0x04) ∧
  (∀ p, responseCode (.fault (.phaseFault p)) = 0x05) ∧ (∀ b, responseCode (.fault (.capacityFault b)) = 0x06) ∧
  (∀ op, responseCode (.fault (.illegalCommand op)) = 0x07) ∧ (∀ d, responseCode (.fault (.unknownDs d)) = 0x08) ∧
  (∀ i x, responseCode (.fault (.paramFault i x)) = 0x09) ∧
  [EncodingSub.decimalNegative, .decimalOverflow, .textTooLong, .nibbleRange, .blockCountOverflow, .lengthOverflow].map
    encodingSubNumber = [1, 2, 3, 4, 5, 6] ∧
  [ParseSub.notANumber, .shortReply].map parseSubNumber = [1, 2]

/-! ### The whole machine -/

/-- The state after reset has the values R190 gives, and meets the invariant (R32, R190). -/
def Obligations.ResetIsQuiescent : Prop :=
  State.reset.ck = 0x7F ∧ State.reset.ph = .idle ∧ State.reset.blen = 0 ∧ State.reset.rlen = 0 ∧ State.reset.out = [] ∧
    MachineInv State.reset

/-- Every step keeps the invariant (R23 to R25, R32): quiescence between transactions, buffers canonical and inside their
capacities, every element of `OUT` a complete framed telegram. -/
def Obligations.EveryStepKeepsTheInvariant : Prop :=
  ∀ s t : State, MachineInv s → step s = .next t → MachineInv t

/-- No transaction writes the configuration (R29, R54). -/
def Obligations.ConfigurationIsConstant : Prop :=
  ∀ s t : State, step s = .next t → t.cfg = s.cfg

/-- Only the three transfer operations reach TRANSPORT, and a transaction hands over at most one telegram, a complete
frame (R46, R109, R160). -/
def Obligations.OnlyTransfersReachTransport : Prop :=
  ∀ (i : Instr) (s t : State), Memory.wf s.buf → exec i s = .next t →
    (isTransfer i = false →
      t.out = s.out ∧ t.sendAnswers = s.sendAnswers ∧ t.recvAnswers = s.recvAnswers) ∧
    (t.out = s.out ∨ ∃ body, t.out = s.out ++ [frameOf body])

/-- Every transaction gives exactly one response and takes exactly one request (R8, R181). -/
def Obligations.OneResponsePerTransaction : Prop :=
  ∀ (s t : State) (r : Request) (rest : List Request), s.requests = r :: rest → step s = .next t →
    t.requests = rest ∧ ∃ x, t.responses = s.responses ++ [x]

/-- `PH` changes only by a `FRM.START` that opened a frame or a `FRM.END` that closed one (R22). -/
def Obligations.PhaseChangesOnlyByStartAndEnd : Prop :=
  ∀ (i : Instr) (s t : State), exec i s = .next t → t.ph ≠ s.ph →
    (i = .frmStart ∧ s.ph = .idle ∧ t.ph = .body ∧ t.responses = s.responses ++ [.ok .unit]) ∨
    (i = .frmEnd ∧ s.ph = .body ∧ t.ph = .idle)

/-- The response of every operation but `FRM.BYTE` and `FRM.END` is a function of its operands, the phase, the
configuration and, for the three transfers, TRANSPORT's answers alone (R32, R86, R95, R135, R153): two states that agree
on these answer alike, whatever their buffers, `CK`, logs and earlier responses and faults hold. Where all of
TRANSPORT's coming answers agree, they still agree afterwards. -/
def Obligations.ResponsesDependOnInputsAlone : Prop :=
  ∀ (i : Instr) (s t s' t' : State), s.ph = t.ph → s.cfg = t.cfg →
    (isTransfer i = true → nextSend s = nextSend t ∧ nextRecv s = nextRecv t) →
    Memory.wf s.buf → Memory.wf t.buf → Memory.wf s.rbuf → Memory.wf t.rbuf →
    isStreamed i = false → exec i s = .next s' → exec i t = .next t' →
    (∃ r, s'.responses = s.responses ++ [r] ∧ t'.responses = t.responses ++ [r]) ∧
    (SameInputs s t → SameInputs s' t')

/-- A queue of commands never stops the machine, whatever the opcodes and operands (R183, R204): a step of it gives a next
state whose queue is commands, and so does every run. That a fault is a response and no stop of the machine is log entry
16. -/
def Obligations.RunsOfCommandsNeverStop : Prop :=
  (∀ s : State, (∀ r ∈ s.requests, ∃ op args, r = .cmd op args) →
    ∃ t, step s = .next t ∧ ∀ r ∈ t.requests, ∃ op args, r = .cmd op args) ∧
  ∀ s : State, (∀ r ∈ s.requests, ∃ op args, r = .cmd op args) → Safe s

/-! ### The wire layouts -/

/-- The layout rows of the opcode table answer the bytes of their layout and change nothing else (R60, R63, R65, R67 to
R69, R71). That they can be asked for at all, and that a digit above 9 is answered as `FLD.DEC` answers it, is the
model's choice (log entry 6). -/
def Obligations.WireLayoutsAnswerTheirBytes : Prop :=
  ∀ s : State,
    (∀ c, exec (.frameTrailer c) s = .next { s with responses := s.responses ++ [.ok (.bytes [0x0D, c])] }) ∧
    (∀ d : Nibble, d ≤ 9 → exec (.fieldDecimalDigit d) s =
      .next { s with responses := s.responses ++ [.ok (.bytes [0x3#4 ++ d])] }) ∧
    (∀ d : Nibble, 9 < d → exec (.fieldDecimalDigit d) s =
      .next { s with
        blen := 0, rlen := 0, responses := s.responses ++ [.fault (.encodingError .decimalOverflow d.toNat)] }) ∧
    (∀ n : Nibble, exec (.fieldNibbleChar n) s =
      .next { s with responses := s.responses ++ [.ok (.bytes [0x3#4 ++ n])] }) ∧
    (∀ a b c : Nibble, a ≤ 9 → b ≤ 9 → c ≤ 9 → exec (.bodyLineNumber a b c) s =
      .next { s with responses := s.responses ++ [.ok (.bytes [0x6C, 0x3#4 ++ a, 0x3#4 ++ b, 0x3#4 ++ c])] }) ∧
    (∀ a b c d : Nibble, [a, b, c].find? (fun x => 9 < x) = some d → exec (.bodyLineNumber a b c) s =
      .next { s with
        blen := 0, rlen := 0, responses := s.responses ++ [.fault (.encodingError .decimalOverflow d.toNat)] }) ∧
    (∀ h l : Nibble, exec (.bodyLpNextStopId h l) s =
      .next { s with responses := s.responses ++ [.ok (.bytes [0x78, 0x5A, 0x3#4 ++ h, 0x3#4 ++ l])] }) ∧
    (∀ n : Nibble, exec (.bodyDestTextHeader n) s =
      .next { s with responses := s.responses ++ [.ok (.bytes [0x7A, 0x41, 0x3#4 ++ n])] }) ∧
    (∀ n : Nibble, exec (.bodyBlockCount n) s =
      .next { s with responses := s.responses ++ [.ok (.bytes [0x3#4 ++ n])] }) ∧
    (∀ m : Nibble, exec (.bodyLsaLength m) s =
      .next { s with responses := s.responses ++ [.ok (.bytes [0x3#4 ++ m])] }) ∧
    exec .bodyLpconnControl s = .next { s with responses := s.responses ++ [.ok (.bytes [0x03, 0x04, 0x05])] } ∧
    (∀ a : Nibble, exec (.bodyDisplayStatusReference a) s =
      .next { s with responses := s.responses ++ [.ok (.bytes [0x61, 0x3#4 ++ a])] })

/-- The bodies the encoder builds for the pinned rows have the layout of their table rows (R71): the fields read back are
the operand's digits, its nibbles, and the block count. -/
def Obligations.PinnedBodiesHaveTheirTableLayout : Prop :=
  ∀ cfg : Config,
    (∀ (v : Nat) (body : Bytes), encodeBody cfg .lineNumber [.nat v] = .ok body →
      ∃ a b c : Nibble, buildWire .lineNumberBody body = some (.bodyLineNumber a b c) ∧
        v = a.toNat * 100 + b.toNat * 10 + c.toNat) ∧
    (∀ (v : Nat) (body : Bytes), encodeBody cfg .lpNextStopId [.nat v] = .ok body →
      ∃ h l : Nibble, buildWire .lpNextStopIdBody body = some (.bodyLpNextStopId h l) ∧ v = h.toNat * 16 + l.toNat) ∧
    (∀ (t : Text) (body : Bytes), encodeBody cfg .destText [.text t] = .ok body →
      ∃ n : Nibble, buildWire .destTextHeader (body.take 3) = some (.bodyDestTextHeader n) ∧
        body.length = 3 + n.toNat * 16 ∧ ∀ b ∈ body.drop 3, b ≤ 0x7F)
end

