-- ==== Sys2Proof/Laws/Memory.lean ====
section
/-! SUPPORT. The laws of the byte stores: a read after a write, and the canonical form, which every memory operation
keeps. -/

namespace Sys2Proof.Machine

/-! ### The canonical form -/

theorem memWrite_keys {m : Memory} {a : Nat} {b : Byte} {c : Host.Cell} (h : c ∈ memWrite m a b) :
    c = (a, b) ∨ c ∈ m := by
  induction m with
  | nil =>
    simp only [memWrite] at h
    split at h <;> simp_all
  | cons x rest ih =>
    obtain ⟨k, v⟩ := x
    simp only [memWrite] at h
    split at h
    · split at h
      · exact .inr h
      · rcases List.mem_cons.1 h with h | h
        · exact .inl h
        · exact .inr h
    · split at h
      · split at h
        · exact .inr (List.mem_cons_of_mem _ h)
        · rcases List.mem_cons.1 h with h | h
          · exact .inl h
          · exact .inr (List.mem_cons_of_mem _ h)
      · rcases List.mem_cons.1 h with h | h
        · exact .inr (by simp [h])
        · rcases ih h with h | h
          · exact .inl h
          · exact .inr (List.mem_cons_of_mem _ h)

/-- A write keeps the canonical form. -/
theorem memWrite_wf {m : Memory} {a : Nat} {b : Byte} (h : Memory.wf m) : Memory.wf (memWrite m a b) := by
  induction m with
  | nil =>
    simp only [memWrite]
    split
    · exact h
    · next hb => exact ⟨by simp, by simpa using hb⟩
  | cons x rest ih =>
    obtain ⟨k, v⟩ := x
    obtain ⟨hs, hn⟩ := h
    obtain ⟨hk, hr⟩ := List.pairwise_cons.1 hs
    have hrest : Memory.wf rest := ⟨hr, fun c hc => hn c (List.mem_cons_of_mem _ hc)⟩
    simp only [memWrite]
    split
    · next ha =>
      split
      · exact ⟨hs, hn⟩
      · next hb =>
        refine ⟨List.pairwise_cons.2 ⟨?_, hs⟩, ?_⟩
        · intro c hc
          rcases List.mem_cons.1 hc with rfl | hc
          · exact ha
          · exact Nat.lt_trans ha (hk c hc)
        · intro c hc
          rcases List.mem_cons.1 hc with rfl | hc
          · exact hb
          · exact hn c hc
    · split
      · next ha hak =>
        split
        · exact hrest
        · next hb =>
          refine ⟨List.pairwise_cons.2 ⟨?_, hr⟩, ?_⟩
          · intro c hc
            rw [hak]
            exact hk c hc
          · intro c hc
            rcases List.mem_cons.1 hc with rfl | hc
            · exact hb
            · exact hrest.2 c hc
      · next ha hak =>
        obtain ⟨ihs, ihn⟩ := ih hrest
        refine ⟨List.pairwise_cons.2 ⟨?_, ihs⟩, ?_⟩
        · intro c hc
          rcases memWrite_keys hc with rfl | hc
          · exact Nat.lt_of_le_of_ne (Nat.le_of_not_lt ha) (Ne.symm hak)
          · exact hk c hc
        · intro c hc
          rcases List.mem_cons.1 hc with rfl | hc
          · exact hn _ (by simp)
          · exact ihn c hc

/-- Writing a byte sequence keeps the canonical form. -/
theorem memWriteN_wf {m : Memory} {a : Nat} {bs : Bytes} (h : Memory.wf m) : Memory.wf (memWriteN m a bs) := by
  induction bs generalizing m a with
  | nil => exact h
  | cons b bs ih => exact ih (memWrite_wf h)

/-- The addresses of a store after a write are those before it and the ones written. -/
theorem memWriteN_keys {m : Memory} {a : Nat} {bs : Bytes} {c : Host.Cell} (h : c ∈ memWriteN m a bs) :
    c.1 < a + bs.length ∨ c ∈ m := by
  induction bs generalizing m a with
  | nil => exact .inr h
  | cons b bs ih =>
    rcases ih h with h | h
    · exact .inl (by simp only [List.length_cons]; omega)
    · rcases memWrite_keys h with rfl | h
      · exact .inl (by simp)
      · exact .inr h

/-! ### Read after write -/

theorem memRead_absent {m : Memory} {a : Nat} (h : ∀ c ∈ m, a < c.1) : memRead m a = Memory.unlisted := by
  induction m with
  | nil => rfl
  | cons x rest ih =>
    obtain ⟨k, v⟩ := x
    have hk : a < k := h (k, v) (by simp)
    simp only [memRead, Nat.ne_of_gt hk, if_false]
    exact ih fun c hc => h c (List.mem_cons_of_mem _ hc)

/-- A read after a write of the same address gives the byte written. -/
theorem memRead_memWrite_same {m : Memory} {a : Nat} {b : Byte} (h : Memory.wf m) :
    memRead (memWrite m a b) a = b := by
  induction m with
  | nil =>
    simp only [memWrite]
    split <;> simp_all [memRead]
  | cons x rest ih =>
    obtain ⟨k, v⟩ := x
    obtain ⟨hs, hn⟩ := h
    obtain ⟨hk, hr⟩ := List.pairwise_cons.1 hs
    simp only [memWrite]
    split
    · next ha =>
      split
      · next hb =>
        rw [hb]
        refine memRead_absent fun c hc => ?_
        rcases List.mem_cons.1 hc with rfl | hc
        · exact ha
        · exact Nat.lt_trans ha (hk c hc)
      · simp [memRead]
    · split
      · next ha hak =>
        split
        · next hb =>
          rw [hb, hak]
          exact memRead_absent fun c hc => hk c hc
        · simp [memRead]
      · next ha hak =>
        simp only [memRead, Ne.symm hak, if_false]
        exact ih ⟨hr, fun c hc => hn c (List.mem_cons_of_mem _ hc)⟩

/-- A write leaves every other address alone. -/
theorem memRead_memWrite_other {m : Memory} {a a' : Nat} {b : Byte} (h : a' ≠ a) :
    memRead (memWrite m a b) a' = memRead m a' := by
  induction m with
  | nil =>
    simp only [memWrite]
    split <;> simp [memRead, Ne.symm h]
  | cons x rest ih =>
    obtain ⟨k, v⟩ := x
    simp only [memWrite]
    split
    · split <;> simp [memRead, Ne.symm h]
    · split
      · next ha hak =>
        split <;> simp [memRead, ← hak, Ne.symm h]
      · simp [memRead, ih]

/-- Reading any address after a byte sequence was written. -/
theorem memRead_memWriteN {m : Memory} {a : Nat} {bs : Bytes} (h : Memory.wf m) (x : Nat) :
    memRead (memWriteN m a bs) x = if a ≤ x ∧ x < a + bs.length then bs.getD (x - a) 0 else memRead m x := by
  induction bs generalizing m a with
  | nil =>
    have : ¬ (a ≤ x ∧ x < a + 0) := by omega
    simp only [memWriteN, List.length_nil, this, if_false]
  | cons b bs ih =>
    rw [memWriteN, ih (memWrite_wf h)]
    by_cases hx : x = a
    · subst hx
      have h1 : ¬ (x + 1 ≤ x ∧ x < x + 1 + bs.length) := by omega
      have h2 : x ≤ x ∧ x < x + (b :: bs).length := by simp
      rw [if_neg h1, if_pos h2, memRead_memWrite_same h]
      simp
    · rw [memRead_memWrite_other hx]
      by_cases hr : a + 1 ≤ x ∧ x < a + 1 + bs.length
      · have h2 : a ≤ x ∧ x < a + (b :: bs).length := by simp only [List.length_cons]; omega
        rw [if_pos hr, if_pos h2]
        obtain ⟨d, rfl⟩ : ∃ d, x = a + 1 + d := ⟨x - (a + 1), by omega⟩
        have e1 : a + 1 + d - (a + 1) = d := by omega
        have e2 : a + 1 + d - a = d + 1 := by omega
        rw [e1, e2, List.getD_cons_succ]
      · have h2 : ¬ (a ≤ x ∧ x < a + (b :: bs).length) := by simp only [List.length_cons]; omega
        rw [if_neg hr, if_neg h2]

/-- Bytes below the written range read as before. -/
theorem memRead_memWriteN_below {m : Memory} {a x : Nat} {bs : Bytes} (hx : x < a) :
    memRead (memWriteN m a bs) x = memRead m x := by
  induction bs generalizing m a with
  | nil => rfl
  | cons b bs ih => rw [memWriteN, ih (by omega), memRead_memWrite_other (by omega)]

/-- Reading back the whole byte sequence just written. -/
theorem memReadN_memWriteN {m : Memory} {a : Nat} {bs : Bytes} (h : Memory.wf m) :
    memReadN (memWriteN m a bs) a bs.length = bs := by
  induction bs generalizing m a with
  | nil => rfl
  | cons b bs ih =>
    simp only [List.length_cons, memReadN, memWriteN]
    rw [ih (memWrite_wf h), memRead_memWriteN_below (by omega), memRead_memWrite_same h]

/-- The first bytes of a byte sequence just written. -/
theorem memReadN_memWriteN_take {m : Memory} {a n : Nat} {bs : Bytes} (h : Memory.wf m) (hn : n ≤ bs.length) :
    memReadN (memWriteN m a bs) a n = bs.take n := by
  induction bs generalizing m a n with
  | nil => simp_all [memReadN]
  | cons b bs ih =>
    cases n with
    | zero => rfl
    | succ n =>
      simp only [memReadN, memWriteN, List.take_succ_cons]
      rw [ih (memWrite_wf h) (by simpa using hn), memRead_memWriteN_below (by omega), memRead_memWrite_same h]

/-- Staging keeps a buffer's form: canonical, and inside its capacity when the bytes fit (R23, R24, R48). -/
theorem memWriteN_bufferOk {m : Memory} {cap : Option Nat} {bs : Bytes} (h : BufferOk m cap)
    (hf : fits cap bs.length = true) : BufferOk (memWriteN m 0 bs) cap := by
  refine ⟨memWriteN_wf h.1, fun k hk c hc => ?_⟩
  subst hk
  rcases memWriteN_keys hc with hc | hc
  · have : bs.length ≤ k := by simpa [fits] using hf
    omega
  · exact h.2 k rfl c hc

end Sys2Proof.Machine
end

