-- ==== Sys2Proof/Laws/State.lean ====
section
/-! SUPPORT. The small lemmas of the state updates: what each field is after each update of Machine/Ops.lean. -/

namespace Sys2Proof.Machine

variable (s : State)

@[simp] theorem respond_ck (r : Result) : (respond r s).ck = s.ck := rfl
@[simp] theorem respond_ph (r : Result) : (respond r s).ph = s.ph := rfl
@[simp] theorem respond_buf (r : Result) : (respond r s).buf = s.buf := rfl
@[simp] theorem respond_blen (r : Result) : (respond r s).blen = s.blen := rfl
@[simp] theorem respond_rbuf (r : Result) : (respond r s).rbuf = s.rbuf := rfl
@[simp] theorem respond_rlen (r : Result) : (respond r s).rlen = s.rlen := rfl
@[simp] theorem respond_out (r : Result) : (respond r s).out = s.out := rfl
@[simp] theorem respond_cfg (r : Result) : (respond r s).cfg = s.cfg := rfl
@[simp] theorem respond_requests (r : Result) : (respond r s).requests = s.requests := rfl
@[simp] theorem respond_sendAnswers (r : Result) : (respond r s).sendAnswers = s.sendAnswers := rfl
@[simp] theorem respond_recvAnswers (r : Result) : (respond r s).recvAnswers = s.recvAnswers := rfl
@[simp] theorem respond_drawn (r : Result) : (respond r s).drawn = s.drawn := rfl
@[simp] theorem respond_responses (r : Result) : (respond r s).responses = s.responses ++ [.ok r] := rfl

@[simp] theorem raise_ck (folded : Bool) (c : Cause) : (raise folded c s).ck = (if folded then seed else s.ck) := rfl
@[simp] theorem raise_ph (folded : Bool) (c : Cause) : (raise folded c s).ph = s.ph := rfl
@[simp] theorem raise_buf (folded : Bool) (c : Cause) : (raise folded c s).buf = s.buf := rfl
@[simp] theorem raise_blen (folded : Bool) (c : Cause) : (raise folded c s).blen = 0 := rfl
@[simp] theorem raise_rbuf (folded : Bool) (c : Cause) : (raise folded c s).rbuf = s.rbuf := rfl
@[simp] theorem raise_rlen (folded : Bool) (c : Cause) : (raise folded c s).rlen = 0 := rfl
@[simp] theorem raise_out (folded : Bool) (c : Cause) : (raise folded c s).out = s.out := rfl
@[simp] theorem raise_cfg (folded : Bool) (c : Cause) : (raise folded c s).cfg = s.cfg := rfl
@[simp] theorem raise_requests (folded : Bool) (c : Cause) : (raise folded c s).requests = s.requests := rfl
@[simp] theorem raise_sendAnswers (folded : Bool) (c : Cause) : (raise folded c s).sendAnswers = s.sendAnswers := rfl
@[simp] theorem raise_recvAnswers (folded : Bool) (c : Cause) : (raise folded c s).recvAnswers = s.recvAnswers := rfl
@[simp] theorem raise_drawn (folded : Bool) (c : Cause) : (raise folded c s).drawn = s.drawn := rfl
@[simp] theorem raise_responses (folded : Bool) (c : Cause) :
    (raise folded c s).responses = s.responses ++ [.fault c] := rfl

@[simp] theorem stageBody_ck (body : Bytes) : (stageBody body s).ck = s.ck := rfl
@[simp] theorem stageBody_ph (body : Bytes) : (stageBody body s).ph = s.ph := rfl
@[simp] theorem stageBody_buf (body : Bytes) : (stageBody body s).buf = memWriteN s.buf 0 body := rfl
@[simp] theorem stageBody_blen (body : Bytes) : (stageBody body s).blen = body.length := rfl
@[simp] theorem stageBody_rbuf (body : Bytes) : (stageBody body s).rbuf = s.rbuf := rfl
@[simp] theorem stageBody_rlen (body : Bytes) : (stageBody body s).rlen = s.rlen := rfl
@[simp] theorem stageBody_out (body : Bytes) : (stageBody body s).out = s.out := rfl
@[simp] theorem stageBody_cfg (body : Bytes) : (stageBody body s).cfg = s.cfg := rfl
@[simp] theorem stageBody_requests (body : Bytes) : (stageBody body s).requests = s.requests := rfl
@[simp] theorem stageBody_sendAnswers (body : Bytes) : (stageBody body s).sendAnswers = s.sendAnswers := rfl
@[simp] theorem stageBody_recvAnswers (body : Bytes) : (stageBody body s).recvAnswers = s.recvAnswers := rfl
@[simp] theorem stageBody_drawn (body : Bytes) : (stageBody body s).drawn = s.drawn := rfl
@[simp] theorem stageBody_responses (body : Bytes) : (stageBody body s).responses = s.responses := rfl

@[simp] theorem clearBody_ck : (clearBody s).ck = s.ck := rfl
@[simp] theorem clearBody_ph : (clearBody s).ph = s.ph := rfl
@[simp] theorem clearBody_buf : (clearBody s).buf = s.buf := rfl
@[simp] theorem clearBody_blen : (clearBody s).blen = 0 := rfl
@[simp] theorem clearBody_rbuf : (clearBody s).rbuf = s.rbuf := rfl
@[simp] theorem clearBody_rlen : (clearBody s).rlen = s.rlen := rfl
@[simp] theorem clearBody_out : (clearBody s).out = s.out := rfl
@[simp] theorem clearBody_cfg : (clearBody s).cfg = s.cfg := rfl
@[simp] theorem clearBody_requests : (clearBody s).requests = s.requests := rfl
@[simp] theorem clearBody_sendAnswers : (clearBody s).sendAnswers = s.sendAnswers := rfl
@[simp] theorem clearBody_recvAnswers : (clearBody s).recvAnswers = s.recvAnswers := rfl
@[simp] theorem clearBody_drawn : (clearBody s).drawn = s.drawn := rfl
@[simp] theorem clearBody_responses : (clearBody s).responses = s.responses := rfl

@[simp] theorem foldBody_ck : (foldBody s).ck = (memReadN s.buf 0 s.blen).foldl (fun c b => c ^^^ b) seed := rfl
@[simp] theorem foldBody_ph : (foldBody s).ph = s.ph := rfl
@[simp] theorem foldBody_buf : (foldBody s).buf = s.buf := rfl
@[simp] theorem foldBody_blen : (foldBody s).blen = s.blen := rfl
@[simp] theorem foldBody_rbuf : (foldBody s).rbuf = s.rbuf := rfl
@[simp] theorem foldBody_rlen : (foldBody s).rlen = s.rlen := rfl
@[simp] theorem foldBody_out : (foldBody s).out = s.out := rfl
@[simp] theorem foldBody_cfg : (foldBody s).cfg = s.cfg := rfl
@[simp] theorem foldBody_requests : (foldBody s).requests = s.requests := rfl
@[simp] theorem foldBody_sendAnswers : (foldBody s).sendAnswers = s.sendAnswers := rfl
@[simp] theorem foldBody_recvAnswers : (foldBody s).recvAnswers = s.recvAnswers := rfl
@[simp] theorem foldBody_drawn : (foldBody s).drawn = s.drawn := rfl
@[simp] theorem foldBody_responses : (foldBody s).responses = s.responses := rfl

@[simp] theorem foldTerm_ck : (foldTerm s).ck = s.ck ^^^ term := rfl
@[simp] theorem foldTerm_ph : (foldTerm s).ph = s.ph := rfl
@[simp] theorem foldTerm_buf : (foldTerm s).buf = s.buf := rfl
@[simp] theorem foldTerm_blen : (foldTerm s).blen = s.blen := rfl
@[simp] theorem foldTerm_rbuf : (foldTerm s).rbuf = s.rbuf := rfl
@[simp] theorem foldTerm_rlen : (foldTerm s).rlen = s.rlen := rfl
@[simp] theorem foldTerm_out : (foldTerm s).out = s.out := rfl
@[simp] theorem foldTerm_cfg : (foldTerm s).cfg = s.cfg := rfl
@[simp] theorem foldTerm_requests : (foldTerm s).requests = s.requests := rfl
@[simp] theorem foldTerm_sendAnswers : (foldTerm s).sendAnswers = s.sendAnswers := rfl
@[simp] theorem foldTerm_recvAnswers : (foldTerm s).recvAnswers = s.recvAnswers := rfl
@[simp] theorem foldTerm_drawn : (foldTerm s).drawn = s.drawn := rfl
@[simp] theorem foldTerm_responses : (foldTerm s).responses = s.responses := rfl

@[simp] theorem clearCk_ck : (clearCk s).ck = seed := rfl
@[simp] theorem clearCk_ph : (clearCk s).ph = s.ph := rfl
@[simp] theorem clearCk_buf : (clearCk s).buf = s.buf := rfl
@[simp] theorem clearCk_blen : (clearCk s).blen = s.blen := rfl
@[simp] theorem clearCk_rbuf : (clearCk s).rbuf = s.rbuf := rfl
@[simp] theorem clearCk_rlen : (clearCk s).rlen = s.rlen := rfl
@[simp] theorem clearCk_out : (clearCk s).out = s.out := rfl
@[simp] theorem clearCk_cfg : (clearCk s).cfg = s.cfg := rfl
@[simp] theorem clearCk_requests : (clearCk s).requests = s.requests := rfl
@[simp] theorem clearCk_sendAnswers : (clearCk s).sendAnswers = s.sendAnswers := rfl
@[simp] theorem clearCk_recvAnswers : (clearCk s).recvAnswers = s.recvAnswers := rfl
@[simp] theorem clearCk_drawn : (clearCk s).drawn = s.drawn := rfl
@[simp] theorem clearCk_responses : (clearCk s).responses = s.responses := rfl

@[simp] theorem stageReply_ck (bs : Bytes) : (stageReply bs s).ck = s.ck := rfl
@[simp] theorem stageReply_ph (bs : Bytes) : (stageReply bs s).ph = s.ph := rfl
@[simp] theorem stageReply_buf (bs : Bytes) : (stageReply bs s).buf = s.buf := rfl
@[simp] theorem stageReply_blen (bs : Bytes) : (stageReply bs s).blen = s.blen := rfl
@[simp] theorem stageReply_rbuf (bs : Bytes) : (stageReply bs s).rbuf = memWriteN s.rbuf 0 bs := rfl
@[simp] theorem stageReply_rlen (bs : Bytes) : (stageReply bs s).rlen = bs.length := rfl
@[simp] theorem stageReply_out (bs : Bytes) : (stageReply bs s).out = s.out := rfl
@[simp] theorem stageReply_cfg (bs : Bytes) : (stageReply bs s).cfg = s.cfg := rfl
@[simp] theorem stageReply_requests (bs : Bytes) : (stageReply bs s).requests = s.requests := rfl
@[simp] theorem stageReply_sendAnswers (bs : Bytes) : (stageReply bs s).sendAnswers = s.sendAnswers := rfl
@[simp] theorem stageReply_recvAnswers (bs : Bytes) : (stageReply bs s).recvAnswers = s.recvAnswers := rfl
@[simp] theorem stageReply_drawn (bs : Bytes) : (stageReply bs s).drawn = s.drawn := rfl
@[simp] theorem stageReply_responses (bs : Bytes) : (stageReply bs s).responses = s.responses := rfl

@[simp] theorem clearReply_ck : (clearReply s).ck = s.ck := rfl
@[simp] theorem clearReply_ph : (clearReply s).ph = s.ph := rfl
@[simp] theorem clearReply_buf : (clearReply s).buf = s.buf := rfl
@[simp] theorem clearReply_blen : (clearReply s).blen = s.blen := rfl
@[simp] theorem clearReply_rbuf : (clearReply s).rbuf = s.rbuf := rfl
@[simp] theorem clearReply_rlen : (clearReply s).rlen = 0 := rfl
@[simp] theorem clearReply_out : (clearReply s).out = s.out := rfl
@[simp] theorem clearReply_cfg : (clearReply s).cfg = s.cfg := rfl
@[simp] theorem clearReply_requests : (clearReply s).requests = s.requests := rfl
@[simp] theorem clearReply_sendAnswers : (clearReply s).sendAnswers = s.sendAnswers := rfl
@[simp] theorem clearReply_recvAnswers : (clearReply s).recvAnswers = s.recvAnswers := rfl
@[simp] theorem clearReply_drawn : (clearReply s).drawn = s.drawn := rfl
@[simp] theorem clearReply_responses : (clearReply s).responses = s.responses := rfl

end Sys2Proof.Machine
end

