-- ==== Sys2Proof/Laws/Ops.lean ====
section
/-! SUPPORT. One lemma per shared operation that says once what it does: `fold`, `framed`, `send`, `receive`,
`transmit`, the endings of a transaction, and the phase tests. -/

namespace Sys2Proof.Machine

/-! ### Folding and framing -/

/-- `fold` as one record update: the body staged, `CK` its checksum (R100, R101). -/
theorem fold_eq {body : Bytes} {s : State} (h : Memory.wf s.buf) :
    fold body s = { s with buf := memWriteN s.buf 0 body, blen := body.length, ck := cksum body } := by
  have hr : memReadN (memWriteN s.buf 0 body) 0 body.length = body := memReadN_memWriteN h
  simp only [fold, foldTerm, foldBody, stageBody, hr, cksum, seed, term]

/-- After the end of a whole-body fold only `BUF` and the two quiescent registers differ (R101). -/
theorem clear_fold_eq (body : Bytes) (s : State) :
    clearBody (clearCk (fold body s)) = { s with buf := memWriteN s.buf 0 body, blen := 0, ck := 0x7F } := rfl

/-- The framed telegram of a folded body is `frameOf` of it (R60, R101). -/
theorem framed_fold {body : Bytes} {s : State} (h : Memory.wf s.buf) : framed (fold body s) = frameOf body := by
  have hr : memReadN (memWriteN s.buf 0 body) 0 body.length = body := memReadN_memWriteN h
  simp only [fold_eq h, framed, hr, frameOf, term]

theorem frameOf_length (body : Bytes) : (frameOf body).length = body.length + 2 := by
  simp [frameOf]

/-! ### TRANSPORT -/

/-- All `send` does: `OUT` grows by the telegram, one answer is taken (R160). -/
theorem send_eq (bs : Bytes) (s : State) :
    send bs s = ({ s with
      out := s.out ++ [bs]
      sendAnswers := s.sendAnswers.tail
      drawn := if s.sendAnswers.isEmpty then s.drawn + 1 else s.drawn }, nextSend s) := by
  obtain h | ⟨a, rest, h⟩ : s.sendAnswers = [] ∨ ∃ a rest, s.sendAnswers = a :: rest := by
    cases s.sendAnswers <;> simp
  · simp [send, nextSend, h]
  · simp [send, nextSend, h]

/-- All `receive` does: one answer is taken and clipped (R161). -/
theorem receive_eq (n : Nat) (s : State) :
    receive n s = ({ s with
      recvAnswers := s.recvAnswers.tail
      drawn := if s.recvAnswers.isEmpty then s.drawn + 1 else s.drawn },
      clipAnswer n (s.recvAnswers.head?.getD (Config.freeRecv s.drawn))) := by
  obtain h | ⟨a, rest, h⟩ : s.recvAnswers = [] ∨ ∃ a rest, s.recvAnswers = a :: rest := by
    cases s.recvAnswers <;> simp
  · simp [receive, h]
  · simp [receive, h]

/-- An answer to `receive(n)` has at most `n` bytes (R161). -/
theorem clipAnswer_length {n : Nat} {a : RecvAnswer} {bs : Bytes} (h : clipAnswer n a = .bytes bs) : bs.length ≤ n := by
  cases a with
  | bytes cs =>
    simp only [clipAnswer, RecvAnswer.bytes.injEq] at h
    simp [← h, List.length_take]
  | timeout => simp [clipAnswer] at h
  | ioError => simp [clipAnswer] at h

/-- All the transmit path does (R109, R162): `OUT` grows by the whole frame of the body, `BUF` holds the body, `CK` and
`BLEN` are quiescent. -/
theorem transmit_eq {body : Bytes} {s : State} (h : Memory.wf s.buf) :
    transmit body s = ({ s with
      buf := memWriteN s.buf 0 body
      blen := 0
      ck := 0x7F
      out := s.out ++ [frameOf body]
      sendAnswers := s.sendAnswers.tail
      drawn := if s.sendAnswers.isEmpty then s.drawn + 1 else s.drawn }, nextSend s) := by
  have h1 : (fold body s).out = s.out := rfl
  have h2 : (fold body s).sendAnswers = s.sendAnswers := rfl
  have h3 : (fold body s).drawn = s.drawn := rfl
  simp only [transmit, send_eq, framed_fold h, h1, h2, h3, nextSend]
  rfl

/-! ### The endings of a transaction -/

theorem finish_ok {α : Type} {wrap : α → Result} {v : α} {s : State} :
    finish wrap (.ok v) s = respond (wrap v) s := rfl

theorem finish_error {α : Type} {wrap : α → Result} {c : Cause} {s : State} :
    finish wrap (.error c) s = raise false c s := rfl

theorem finishBody_ok {i : Instr} {body : Bytes} {s : State} :
    finishBody i (.ok body) s = { s with
      buf := memWriteN s.buf 0 body, blen := 0, responses := s.responses ++ [.ok (.bytes body)] } := rfl

theorem finishBody_error {i : Instr} {c : Cause} {s : State} :
    finishBody i (.error c) s = raise false (settleFor s.cfg (encode i) c) s := rfl

/-- All fault entry does: the lengths are 0, `CK` is the seed where folding had begun, the response is the fault (R178). -/
theorem raise_eq {folded : Bool} {c : Cause} {s : State} :
    raise folded c s = { s with
      blen := 0, rlen := 0, ck := if folded then seed else s.ck, responses := s.responses ++ [.fault c] } := rfl

/-- All that fault entry of an instruction does to a state: the fault is recorded with its whole info (R178). -/
theorem raiseFor_eq {i : Instr} {folded : Bool} {c : Cause} {s : State} :
    raiseFor i folded c s = { s with
      blen := 0, rlen := 0, ck := if folded then seed else s.ck
      responses := s.responses ++ [.fault (settleFor s.cfg (encode i) c)] } := rfl

theorem finishReply_ok {i : Instr} {folded : Bool} {v : ReplyResult} {s : State} :
    finishReply i folded (s, .ok v) = { s with responses := s.responses ++ [.ok (.reply v)] } := rfl

theorem finishReply_error {i : Instr} {folded : Bool} {c : Cause} {s : State} :
    finishReply i folded (s, .error c) = { s with
      blen := 0, rlen := 0, ck := if folded then seed else s.ck
      responses := s.responses ++ [.fault (settleFor s.cfg (encode i) c)] } := rfl

/-- A fault whose info the spec states is recorded as it is (R170). -/
theorem settle_stated {n : Nat} {c : Cause} (h : ∀ x, c ≠ .paramFault none x) : settle n c = c := by
  unfold settle
  split
  · exact absurd rfl (h _)
  · rfl

/-- A fault is never settled into one of another code (R170). -/
theorem settle_code (n : Nat) (c : Cause) : faultCode (settle n c) = faultCode c := by
  unfold settle
  split <;> rfl

/-! ### The phase tests -/

theorem whenIdle_idle {s : State} {k : State → State} (h : s.ph = .idle) : whenIdle s k = k s := by
  simp [whenIdle, h]

theorem whenIdle_body {s : State} {k : State → State} (h : s.ph = .body) :
    whenIdle s k = raise false (.phaseFault .body) s := by
  simp [whenIdle, h]

theorem whenBody_body {s : State} {k : State → State} (h : s.ph = .body) : whenBody s k = k s := by
  simp [whenBody, h]

theorem whenBody_idle {s : State} {k : State → State} (h : s.ph = .idle) :
    whenBody s k = raise false (.phaseFault .idle) s := by
  simp [whenBody, h]

/-! ### Reply decoding -/

/-- All a staged decode does to the state: `RBUF` holds the reply (R152). -/
theorem decodeStaged_state (rp : ReplySpec) (bs : Bytes) (s : State) :
    (decodeStaged rp bs s).1 = { s with rbuf := memWriteN s.rbuf 0 bs, rlen := 0 } := by
  unfold decodeStaged
  dsimp only
  split <;> rfl

/-- What a staged decode of a whole reply answers: the fields of its payload (R152). -/
theorem decodeStaged_result {rp : ReplySpec} {bs : Bytes} {s : State} (h : Memory.wf s.rbuf)
    (hl : bs.length = rp.rlen) : (decodeStaged rp bs s).2 = decFields s.cfg rp.rfields (bs.take (rp.rlen - 2)) [] := by
  have hn : ¬ (stageReply bs s).rlen < rp.rlen := by simp [hl]
  have ht : rp.rlen - 2 ≤ bs.length := by omega
  simp only [decodeStaged, hn, if_false]
  exact congrArg (fun x => decFields s.cfg rp.rfields x []) (memReadN_memWriteN_take h ht)

/-- What a staged decode of a short reply answers (R151). -/
theorem decodeStaged_short {rp : ReplySpec} {bs : Bytes} {s : State} (hl : bs.length < rp.rlen) :
    (decodeStaged rp bs s).2 = .ok .noReply := by
  have hn : (stageReply bs s).rlen < rp.rlen := by simpa using hl
  simp only [decodeStaged, hn, if_true]

/-- All a decode can do to the state: nothing, or `RBUF` holds a reply that fits (R152). -/
theorem decodeReply_state (ds : DsId) (r : Option Bytes) (s : State) :
    (decodeReply ds r s).1 = s ∨
    ∃ bs, r = some bs ∧ fits s.cfg.rbufCap bs.length = true ∧
      (decodeReply ds r s).1 = { s with rbuf := memWriteN s.rbuf 0 bs, rlen := 0 } := by
  unfold decodeReply
  split
  · exact .inl rfl
  · split
    · exact .inl rfl
    · split
      · exact .inl rfl
      · next bs =>
        split
        · exact .inl rfl
        · split
          · next hf => exact .inr ⟨bs, rfl, hf, decodeStaged_state _ _ _⟩
          · exact .inl rfl

end Sys2Proof.Machine
end

