-- ==== Sys2Proof/Laws/Operands.lean ====
section
/-! SUPPORT. What the operand forms do, said once per function: the nibble codec, the widths of laid-out fields, a list of
fields, the block counts, the composite's gaps, the map of reply fields, and the last check of every encoder. -/

namespace Sys2Proof.Machine

/-! ### Nibble characters -/

theorem charNibble_nibbleChar : ∀ n : Nibble, charNibble (nibbleChar n) = some n := by decide

theorem dec_ok {c : Byte} (h : c.extractLsb' 4 4 = 0x3#4) : dec c = .ok (c.extractLsb' 0 4) := by
  simp [dec, charNibble, h]

theorem dec_error {c : Byte} (h : c.extractLsb' 4 4 ≠ 0x3#4) : dec c = .error (.invalidSymbol c) := by
  simp [dec, charNibble, h]

theorem encw_ok {k v : Nat} (h1 : 1 ≤ k) (h8 : k ≤ 8) (hv : v < 16 ^ k) : encw k v = .ok (nibbleChars k v) := by
  rw [encw, if_neg (by omega), if_neg (by omega)]

/-- The first character of a multi-nibble form is its most significant nibble (R65). -/
theorem nibbleChars_succ (k v : Nat) :
    nibbleChars (k + 1) v = nibbleChar (BitVec.ofNat 4 (v / 16 ^ k)) :: nibbleChars k v := by
  unfold nibbleChars
  rw [List.range_succ_eq_map, List.map_cons, List.map_map]
  congr 1
  · rw [Nat.shiftRight_eq_div_pow, Nat.mul_comm, Nat.pow_mul]
    simp
  · refine List.map_congr_left fun i _ => ?_
    simp only [Function.comp]
    congr 4
    omega

/-! ### Fields -/

/-- The first digit of a decimal field is the highest power of ten (R63). -/
theorem decimalChars_succ (w v : Nat) :
    decimalChars (w + 1) v = (0x30 + BitVec.ofNat 8 (v / 10 ^ w % 10)) :: decimalChars w v := by
  unfold decimalChars
  rw [List.range_succ_eq_map, List.map_cons, List.map_map]
  congr 1
  refine List.map_congr_left fun i _ => ?_
  simp only [Function.comp]
  congr 5
  omega

theorem fdec_ok {w : Nat} {v : Int} (h1 : 1 ≤ w) (h2 : 0 ≤ v) (h3 : v < (10 : Int) ^ w) :
    fdec w v = .ok (decimalChars w v.toNat) := by
  rw [fdec, if_neg (by omega), if_neg (by omega), if_neg (by omega)]

theorem padTo_length {w : Nat} {pad : Char7} {align : Align} {b : Bytes} (h : b.length ≤ w) :
    (padTo w pad align b).length = w := by
  cases align <;> simp [padTo] <;> omega

theorem sanitize_length (t : Text) : (sanitize t).length = t.length := by
  simp [sanitize]

theorem unindexed_ok {α : Type} {r : Except Cause α} {v : α} (h : unindexed r = .ok v) : r = .ok v := by
  unfold unindexed at h
  split at h
  · cases h
  · exact h

/-- A field list whose every operand fits is the concatenation of its laid-out fields (R126, R132). -/
theorem layFields_ok {fs : List FieldSpec} {xs : List Operand} {ps : List Bytes} (hl : xs.length = fs.length)
    (h : List.Forall₂ (fun fx piece => layField fx.1 fx.2 = .ok piece) (fs.zip xs) ps) :
    layFields fs xs = .ok ps.flatten := by
  induction fs generalizing xs ps with
  | nil =>
    cases h
    rfl
  | cons f fs ih =>
    cases xs with
    | nil => simp at hl
    | cons x xs =>
      rw [List.zip_cons_cons] at h
      cases h with
      | cons h1 h2 => simp only [layFields, h1, ih (by simpa using hl) h2, List.flatten_cons]

/-! ### Bodies -/

theorem capBody_eq_ok {cfg : Config} {b body : Bytes} (h : capBody cfg b = .ok body) :
    body = b ∧ fits cfg.bufCap body.length = true := by
  unfold capBody at h
  split at h <;> cases h
  exact ⟨rfl, by assumption⟩

theorem cdiv_bounds {b : Nat} (a : Nat) (hb : 0 < b) : a ≤ cdiv a b * b ∧ cdiv a b * b < a + b := by
  unfold cdiv
  have h1 := Nat.div_add_mod (a + b - 1) b
  have h2 := Nat.mod_lt (a + b - 1) hb
  rw [Nat.mul_comm] at h1
  constructor <;> omega

theorem divmodCount_bounds {a b : Nat} (hb : 0 < b) :
    a ≤ divmodCount a b * b ∧ divmodCount a b * b < a + b := by
  unfold divmodCount
  have h1 := Nat.div_add_mod a b
  have h2 := Nat.mod_lt a hb
  rw [Nat.mul_comm] at h1
  split
  · omega
  · rw [Nat.add_mul]
    omega

theorem blockSize_pos (size : BlockSize) : 0 < size.bytes := by
  cases size <;> decide

/-- Gaps the model uses around a composite's operands meet the constraint of R68. -/
theorem lpGaps_ok {cfg : Config} {row : Row} {x : Operand} {a b : Text} {g : LpGaps}
    (h : lpGaps cfg row x a b = .ok g) : gapsOk g = true := by
  have hr : gapsOk Config.referenceGaps = true := by decide
  unfold lpGaps at h
  repeat' split at h
  all_goals cases h <;> assumption

/-- What `gapsOk` says: the control bytes once each in order (R68), and char7 bytes only (R135). -/
theorem gapsOk_iff {g : LpGaps} : gapsOk g = true ↔
    (g.before ++ g.afterId ++ g.afterStop ++ g.afterChange).filter isControl = [0x03, 0x04, 0x05] ∧
      ∀ b ∈ g.before ++ g.afterId ++ g.afterStop ++ g.afterChange, b ≤ 0x7F := by
  simp only [gapsOk, Bool.and_eq_true, beq_iff_eq, List.all_eq_true, decide_eq_true_eq]

/-- A composite of laid-out operands is the gaps around them, or the composition's own fault (R68, R130). -/
theorem composeLp_laid {cfg : Config} {row : Row} {spec : FieldSpec} {x : Operand} {a b : Text} {piece : Bytes}
    (h : layField spec x = .ok piece) :
    composeLp cfg row spec x a b =
      (lpGaps cfg row x a b).map fun g =>
        g.before ++ piece ++ g.afterId ++ sanitize a ++ g.afterStop ++ sanitize b ++ g.afterChange := by
  simp only [composeLp, h]
  cases lpGaps cfg row x a b <;> rfl

/-! ### Rows -/

/-- Every row of the table meets the constraints of R70. -/
theorem dsRow_ok {cfg : Config} {ds : DsId} {row : Row} (h : dsRow cfg ds = some row) : rowOk row = true := by
  cases ds with
  | lineNumber => cases h; decide
  | lpNextStopId => cases h; decide
  | destText => cases h; decide
  | displayStatus =>
    simp only [dsRow, Option.some.injEq] at h
    subst h
    split
    · next h => simp only [displayStatusOk, Bool.and_eq_true] at h; exact h.1
    · decide
  | openDs k => exact (Option.filter_eq_some_iff.1 h).2

/-- A reply field of a row lies in the payload, and a status or nibble field has the width its kind asks (R70, R149). -/
theorem replyField_ok {cfg : Config} {ds : DsId} {row : Row} {rp : ReplySpec} {f : ReplyField}
    (h : dsRow cfg ds = some row) (hr : row.reply = some rp) (hf : f ∈ rp.rfields) :
    f.offset + f.width ≤ rp.rlen - 2 ∧ (f.kind = .status → f.width = 1) ∧
      (f.kind = .nibble → 1 ≤ f.width ∧ f.width ≤ 8) := by
  have ho := dsRow_ok h
  simp only [rowOk, hr, Bool.and_eq_true, decide_eq_true_eq, List.all_eq_true] at ho
  have h1 := ho.2.2 f hf
  simp only [replyFieldOk, Bool.and_eq_true, decide_eq_true_eq] at h1
  refine ⟨h1.1, fun hk => ?_, fun hk => ?_⟩
  · simpa [hk] using h1.2
  · simpa [hk] using h1.2

/-! ### Reply fields -/

/-- A map of reply fields after one value is set (R152). -/
theorem setField_lookup (n : FieldName) (v : Value) (m : List (FieldName × Value)) (x : FieldName) :
    (setField n v m).lookup x = if n = x then some v else m.lookup x := by
  induction m with
  | nil =>
    by_cases h : n = x
    · simp [setField, h]
    · have hb : (x == n) = false := beq_false_of_ne (Ne.symm h)
      simp [setField, List.lookup, h, hb]
  | cons p m ih =>
    obtain ⟨k, y⟩ := p
    simp only [setField]
    by_cases hk : k = n
    · subst hk
      by_cases hx : k = x
      · simp [hx]
      · have hb : (x == k) = false := beq_false_of_ne (Ne.symm hx)
        simp [List.lookup, hx, hb]
    · simp only [hk, if_false, List.lookup, ih]
      by_cases hx : x = k
      · subst hx
        simp [Ne.symm hk]
      · have hb : (x == k) = false := beq_false_of_ne hx
        simp [hb]

end Sys2Proof.Machine
end

