-- ==== Sys2Proof/Laws/PerInstr.lean ====
section
/-! SUPPORT. Statements made per instruction. `EncodedForm`: the encoder writes a command as a listed opcode with
operands of the types of spec/30_encoding.md R73, and a wire layout as at least one byte. -/

namespace Sys2Proof.Laws.EncodedForm

/-- The form of an encoded instruction. -/
def Statement (i : Instr) : Prop :=
  match encode i with
  | .cmd op args => ∃ sig, signature op = some sig ∧ sig.length = args.length ∧ firstMismatch sig args 0 = none
  | .wire _ bs => bs ≠ []

theorem vdvEnc : ∀ n, Statement (.vdvEnc n) := by
  intro n
  exact ⟨_, rfl, rfl, rfl⟩

theorem vdvDec : ∀ c, Statement (.vdvDec c) := by
  intro c
  exact ⟨_, rfl, rfl, rfl⟩

theorem vdvEncw : ∀ k v, Statement (.vdvEncw k v) := by
  intro k v
  exact ⟨_, rfl, rfl, rfl⟩

theorem vdvDecw : ∀ cs, Statement (.vdvDecw cs) := by
  intro cs
  exact ⟨_, rfl, rfl, rfl⟩

theorem scmChr : ∀ cp, Statement (.scmChr cp) := by
  intro cp
  exact ⟨_, rfl, rfl, rfl⟩

theorem scmStr : ∀ t, Statement (.scmStr t) := by
  intro t
  exact ⟨_, rfl, rfl, rfl⟩

theorem frmCksum : ∀ body, Statement (.frmCksum body) := by
  intro body
  exact ⟨_, rfl, rfl, rfl⟩

theorem frmFrame : ∀ body, Statement (.frmFrame body) := by
  intro body
  exact ⟨_, rfl, rfl, rfl⟩

theorem frmStart : Statement (.frmStart) := ⟨_, rfl, rfl, rfl⟩

theorem frmByte : ∀ b, Statement (.frmByte b) := by
  intro b
  exact ⟨_, rfl, rfl, rfl⟩

theorem frmEnd : Statement (.frmEnd) := ⟨_, rfl, rfl, rfl⟩

theorem fldDec : ∀ w v, Statement (.fldDec w v) := by
  intro w v
  exact ⟨_, rfl, rfl, rfl⟩

theorem fldTxt : ∀ w pad align t, Statement (.fldTxt w pad align t) := by
  intro w pad align t
  exact ⟨_, rfl, rfl, rfl⟩

theorem fldRaw : ∀ w pad align b, Statement (.fldRaw w pad align b) := by
  intro w pad align b
  exact ⟨_, rfl, rfl, rfl⟩

theorem encFixed : ∀ ds params, Statement (.encFixed ds params) := by
  intro ds params
  exact ⟨_, rfl, rfl, rfl⟩

theorem encBlock : ∀ ds t, Statement (.encBlock ds t) := by
  intro ds t
  exact ⟨_, rfl, rfl, rfl⟩

theorem encLpconn : ∀ ds stopId stopText changeText, Statement (.encLpconn ds stopId stopText changeText) := by
  intro ds stopId stopText changeText
  exact ⟨_, rfl, rfl, rfl⟩

theorem encLsa : ∀ ds params, Statement (.encLsa ds params) := by
  intro ds params
  exact ⟨_, rfl, rfl, rfl⟩

theorem rxStrip : ∀ raw, Statement (.rxStrip raw) := by
  intro raw
  exact ⟨_, rfl, rfl, rfl⟩

theorem decStatus : ∀ c, Statement (.decStatus c) := by
  intro c
  exact ⟨_, rfl, rfl, rfl⟩

theorem decBeacon : ∀ cs, Statement (.decBeacon cs) := by
  intro cs
  exact ⟨_, rfl, rfl, rfl⟩

theorem decVerstr : ∀ b, Statement (.decVerstr b) := by
  intro b
  exact ⟨_, rfl, rfl, rfl⟩

theorem decVerint : ∀ b, Statement (.decVerint b) := by
  intro b
  exact ⟨_, rfl, rfl, rfl⟩

theorem decReply : ∀ ds r, Statement (.decReply ds r) := by
  intro ds r
  cases r <;> exact ⟨_, rfl, rfl, rfl⟩

theorem xferSend : ∀ ds params, Statement (.xferSend ds params) := by
  intro ds params
  exact ⟨_, rfl, rfl, rfl⟩

theorem xferSendraw : ∀ body, Statement (.xferSendraw body) := by
  intro body
  exact ⟨_, rfl, rfl, rfl⟩

theorem xferQuery : ∀ ds params, Statement (.xferQuery ds params) := by
  intro ds params
  exact ⟨_, rfl, rfl, rfl⟩

theorem frameTrailer : ∀ c, Statement (.frameTrailer c) := by
  intro c
  simp [Statement, encode]

theorem fieldDecimalDigit : ∀ d, Statement (.fieldDecimalDigit d) := by
  intro d
  simp [Statement, encode]

theorem fieldNibbleChar : ∀ n, Statement (.fieldNibbleChar n) := by
  intro n
  simp [Statement, encode]

theorem bodyLineNumber : ∀ a b c, Statement (.bodyLineNumber a b c) := by
  intro a b c
  simp [Statement, encode]

theorem bodyLpNextStopId : ∀ h l, Statement (.bodyLpNextStopId h l) := by
  intro h l
  simp [Statement, encode]

theorem bodyDestTextHeader : ∀ n, Statement (.bodyDestTextHeader n) := by
  intro n
  simp [Statement, encode]

theorem bodyBlockCount : ∀ n, Statement (.bodyBlockCount n) := by
  intro n
  simp [Statement, encode]

theorem bodyLsaLength : ∀ m, Statement (.bodyLsaLength m) := by
  intro m
  simp [Statement, encode]

theorem bodyLpconnControl : Statement (.bodyLpconnControl) := by simp [Statement, encode]

theorem bodyDisplayStatusReference : ∀ a, Statement (.bodyDisplayStatusReference a) := by
  intro a
  simp [Statement, encode]

end Sys2Proof.Laws.EncodedForm
end

