-- ==== Sys2Proof/Laws/Port.lean ====
section
/-! SUPPORT. What the command port answers to a request that is no instruction, one lemma per case of the order of its
checks (spec/43_body_encoder.md R133, spec/60_exceptions.md R181). -/

namespace Sys2Proof.Machine

/-- All that operands of a wrong type or number do to a state: one fault is recorded (R178, R179). -/
theorem answerReject_operands {r : Request} {op : Byte} {index : Option Nat} {s : State} :
    answerReject r (.operands op index) s = .next { s with
      blen := 0, rlen := 0
      responses := s.responses ++ [.fault (settleFor s.cfg r (operandFault s.cfg op (requestArgs r) index s.ph))] } :=
  rfl

/-- The phase comes first (R181). -/
theorem operandFault_phase {cfg : Config} {op : Byte} {args : List Arg} {index : Option Nat} {ph p : Phase}
    (h : neededPhase op = some p) (hp : ph ≠ p) : operandFault cfg op args index ph = .phaseFault ph := by
  simp [operandFault, h, hp]

/-- In the phase the operation needs, the row and the operands decide. -/
theorem operandFault_args {cfg : Config} {op : Byte} {args : List Arg} {index : Option Nat} {ph : Phase}
    (h : ∀ p, neededPhase op = some p → ph = p) : operandFault cfg op args index ph = argFault cfg op args index := by
  unfold operandFault
  split
  · rfl
  · next p hp => rw [if_pos (h p hp)]

/-- An unknown data set comes before every fault of the further operands (R133). -/
theorem argFault_unknown {cfg : Config} {op : Byte} {ds : DsId} {args : List Arg} {index : Option Nat}
    (ht : takesDs op = true) (h : dsRow cfg ds = none) : argFault cfg op (.ds ds :: args) index = .unknownDs ds := by
  simp [argFault, ht, rowFault, h]

/-- A row that does not serve the operation comes before the types of the further operands (R133). -/
theorem argFault_row {cfg : Config} {op : Byte} {ds : DsId} {args : List Arg} {index : Option Nat} {row : Row}
    (ht : takesDs op = true) (h : dsRow cfg ds = some row) (hr : rowServes op row = false) :
    argFault cfg op (.ds ds :: args) index = .paramFault none none := by
  simp [argFault, ht, rowFault, h, hr]

/-- With a row that serves the operation, the operands' own fault is the response (R179). -/
theorem argFault_served {cfg : Config} {op : Byte} {ds : DsId} {args : List Arg} {index : Option Nat} {row : Row}
    (h : dsRow cfg ds = some row) (hr : rowServes op row = true) (hq : queryTooLong cfg op row = false) :
    argFault cfg op (.ds ds :: args) index = .paramFault index none := by
  simp [argFault, rowFault, h, hr, hq]

end Sys2Proof.Machine
end

