-- ==== Sys2Proof/Laws/Transfers.lean ====
section
/-! SUPPORT. What the shared operations of the framer, the transfers and the reply decoder do, one lemma per case: each
gives the whole next state as one record update. -/

namespace Sys2Proof.Machine

theorem fits_of_le {cap : Option Nat} {n : Nat} (h : ∀ k, cap = some k → n ≤ k) : fits cap n = true := by
  cases cap with
  | none => rfl
  | some k => simpa [fits] using h k rfl

theorem fits_of_lt {cap : Option Nat} {n k : Nat} (h : cap = some k) (hk : k < n) : fits cap n = false := by
  subst h
  simpa [fits] using hk

/-! ### The framer -/

/-- A whole-body fold of a body that fits (R101, R105). -/
theorem foldWhole_ok {body : Bytes} {result : State → Result} {s : State} (hp : s.ph = .idle)
    (hf : fits s.cfg.bufCap body.length = true) :
    foldWhole body result s = { s with
      buf := memWriteN s.buf 0 body, blen := 0, ck := 0x7F
      responses := s.responses ++ [.ok (result (fold body s))] } := by
  simp only [foldWhole, whenIdle_idle hp, hf, if_true]
  rfl

/-- A whole-body fold of a body that does not fit (R101, R177). -/
theorem foldWhole_full {body : Bytes} {result : State → Result} {s : State} (hp : s.ph = .idle)
    (hf : fits s.cfg.bufCap body.length = false) :
    foldWhole body result s = raise false (.capacityFault .buf) s := by
  simp [foldWhole, whenIdle_idle hp, hf]

/-- A whole-body fold while a streamed frame is open (R176). -/
theorem foldWhole_open {body : Bytes} {result : State → Result} {s : State} (hp : s.ph = .body) :
    foldWhole body result s = raise false (.phaseFault .body) s := whenIdle_body hp

/-! ### Transfers -/

/-- A send-only transfer to which TRANSPORT answers success (R162). -/
theorem sendBody_success {body : Bytes} {s : State} (hw : Memory.wf s.buf) (ha : nextSend s = .success) :
    sendBody body s = { s with
      buf := memWriteN s.buf 0 body, blen := 0, ck := 0x7F, out := s.out ++ [frameOf body]
      sendAnswers := s.sendAnswers.tail
      drawn := if s.sendAnswers.isEmpty then s.drawn + 1 else s.drawn
      responses := s.responses ++ [.ok .unit] } := by
  simp only [sendBody, transmit_eq hw, ha]
  rfl

/-- A send-only transfer to which TRANSPORT answers IOError (R162, R174). -/
theorem sendBody_ioError {body : Bytes} {s : State} (hw : Memory.wf s.buf) (ha : nextSend s = .ioError) :
    sendBody body s = { s with
      buf := memWriteN s.buf 0 body, blen := 0, rlen := 0, ck := 0x7F, out := s.out ++ [frameOf body]
      sendAnswers := s.sendAnswers.tail
      drawn := if s.sendAnswers.isEmpty then s.drawn + 1 else s.drawn
      responses := s.responses ++ [.fault (.transportError .send)] } := by
  simp only [sendBody, transmit_eq hw, ha]
  rfl

/-! ### Replies -/

/-- The decode of a whole reply that fits (R152). -/
theorem decodeReply_whole {ds : DsId} {bs : Bytes} {s : State} {row : Row} {rp : ReplySpec} (hw : Memory.wf s.rbuf)
    (hd : dsRow s.cfg ds = some row) (hr : row.reply = some rp) (hl : bs.length = rp.rlen)
    (hf : fits s.cfg.rbufCap bs.length = true) :
    decodeReply ds (some bs) s =
      ({ s with rbuf := memWriteN s.rbuf 0 bs, rlen := 0 },
        decFields s.cfg rp.rfields (bs.take (rp.rlen - 2)) []) := by
  simp only [decodeReply, hd, hr, if_neg (by omega : ¬ rp.rlen < bs.length), hf, if_true]
  exact Prod.ext (decodeStaged_state _ _ _) (decodeStaged_result hw hl)

/-- The decode of a short reply that fits (R151). -/
theorem decodeReply_short {ds : DsId} {bs : Bytes} {s : State} {row : Row} {rp : ReplySpec}
    (hd : dsRow s.cfg ds = some row) (hr : row.reply = some rp) (hl : bs.length < rp.rlen)
    (hf : fits s.cfg.rbufCap bs.length = true) :
    decodeReply ds (some bs) s = ({ s with rbuf := memWriteN s.rbuf 0 bs, rlen := 0 }, .ok .noReply) := by
  simp only [decodeReply, hd, hr, if_neg (by omega : ¬ rp.rlen < bs.length), hf, if_true]
  exact Prod.ext (decodeStaged_state _ _ _) (decodeStaged_short hl)

end Sys2Proof.Machine
end

