-- ==== Sys2Proof/Tests/Slice0.lean ====
section
/-! SUPPORT. Tests of the model, each on one small input, and one witness per statement with hypotheses. Expected values
are the spec's: the encodings of spec/opcode_table.json and spec/30_encoding.md R71, R73, and the vectors of
spec/95_test_vectors.md. -/

namespace Sys2Proof.Tests

open Sys2Proof Sys2Proof.Machine

/-! ### Helpers -/

/-- The last response of a step. -/
def answer (o : Host.Outcome State Fault Refusal) : Option Response :=
  match o with
  | .next t => t.responses.getLast?
  | .fault _ => none
  | .refused _ => none

/-- The telegrams handed over by a step. -/
def sent (o : Host.Outcome State Fault Refusal) : List Bytes :=
  match o with
  | .next t => t.out
  | .fault _ => []
  | .refused _ => []

/-- The reset state with requests waiting. -/
def queued (rs : List Request) : State := { State.reset with requests := rs }

/-- The reset state with a streamed frame open at an accumulator value. -/
def opened (ck : Byte) : State := { State.reset with ph := .body, ck := ck }

/-- The reset state with both buffers bounded. -/
def capped (n m : Nat) : State :=
  { State.reset with cfg := { Config.reference with bufCap := some n, rbufCap := some m } }

/-- The reset state with TRANSPORT's next answers. -/
def answered (a : SendAnswer) (b : RecvAnswer) : State :=
  { State.reset with sendAnswers := [a], recvAnswers := [b] }

/-- `"München"` as code points. -/
def munich : Text := [0x4D, 0xFC, 0x6E, 0x63, 0x68, 0x65, 0x6E]

/-- `"Stop"` as code points. -/
def stop : Text := [0x53, 0x74, 0x6F, 0x70]

/-! ### Well-formedness: each check refuses an ill-formed term -/

theorem test_wf_digit : (Instr.fieldDecimalDigit 10).wellFormed = false := by decide
theorem test_wf_line_a : (Instr.bodyLineNumber 10 0 0).wellFormed = false := by decide
theorem test_wf_line_b : (Instr.bodyLineNumber 0 15 0).wellFormed = false := by decide
theorem test_wf_line_c : (Instr.bodyLineNumber 9 9 10).wellFormed = false := by decide
theorem test_wf_line_ok : (Instr.bodyLineNumber 9 9 9).wellFormed = true := by decide

/-! ### Decoding: the opcodes and layouts as the spec writes them -/

theorem test_decode_vdvhex :
    decode (.cmd 0b00010000 [.nibble 12]) = .ok (.vdvEnc 12) ∧
    decode (.cmd 0b00010001 [.byte 0x3A]) = .ok (.vdvDec 0x3A) ∧
    decode (.cmd 0b00010010 [.value (.nat 2), .value (.nat 18)]) = .ok (.vdvEncw 2 18) ∧
    decode (.cmd 0b00010011 [.value (.bytes [0x31, 0x32])]) = .ok (.vdvDecw [0x31, 0x32]) := ⟨rfl, rfl, rfl, rfl⟩

theorem test_decode_scm :
    decode (.cmd 0b00100000 [.codePoint 0xFC]) = .ok (.scmChr 0xFC) ∧
    decode (.cmd 0b00100001 [.value (.text munich)]) = .ok (.scmStr munich) := ⟨rfl, rfl⟩

theorem test_decode_framer :
    decode (.cmd 0b00110000 [.value (.bytes [0x61])]) = .ok (.frmCksum [0x61]) ∧
    decode (.cmd 0b00110001 [.value (.bytes [0x61])]) = .ok (.frmFrame [0x61]) ∧
    decode (.cmd 0b00110010 []) = .ok .frmStart ∧
    decode (.cmd 0b00110011 [.byte 0x6C]) = .ok (.frmByte 0x6C) ∧
    decode (.cmd 0b00110100 []) = .ok .frmEnd := ⟨rfl, rfl, rfl, rfl, rfl⟩

theorem test_decode_fields :
    decode (.cmd 0b01000000 [.value (.nat 3), .value (.int 12)]) = .ok (.fldDec 3 12) ∧
    decode (.cmd 0b01000000 [.value (.nat 3), .value (.nat 12)]) = .ok (.fldDec 3 12) ∧
    decode (.cmd 0b01000001 [.value (.nat 4), .char7 0x20, .align .left, .value (.text stop)]) =
      .ok (.fldTxt 4 0x20 .left stop) ∧
    decode (.cmd 0b01000011 [.value (.nat 4), .char7 0x30, .align .right, .value (.bytes [0x41])]) =
      .ok (.fldRaw 4 0x30 .right [0x41]) := ⟨rfl, rfl, rfl, rfl⟩

theorem test_decode_encoders :
    decode (.cmd 0b01001000 [.ds .lineNumber, .params [.nat 12]]) = .ok (.encFixed .lineNumber [.nat 12]) ∧
    decode (.cmd 0b01001001 [.ds .destText, .value (.text stop)]) = .ok (.encBlock .destText stop) ∧
    decode (.cmd 0b01001010 [.ds (.openDs 0), .value (.nat 7), .value (.text []), .value (.text stop)]) =
      .ok (.encLpconn (.openDs 0) (.nat 7) [] stop) ∧
    decode (.cmd 0b01001011 [.ds (.openDs 1), .params [.nat 2]]) = .ok (.encLsa (.openDs 1) [.nat 2]) :=
  ⟨rfl, rfl, rfl, rfl⟩

theorem test_decode_replydec :
    decode (.cmd 0b01010000 [.value (.bytes [0x0D, 0x72])]) = .ok (.rxStrip [0x0D, 0x72]) ∧
    decode (.cmd 0b01010001 [.byte 0x32]) = .ok (.decStatus 0x32) ∧
    decode (.cmd 0b01010010 [.value (.bytes [0x30])]) = .ok (.decBeacon [0x30]) ∧
    decode (.cmd 0b01010011 [.value (.bytes [0x56])]) = .ok (.decVerstr [0x56]) ∧
    decode (.cmd 0b01010100 [.value (.bytes [0x37])]) = .ok (.decVerint [0x37]) ∧
    decode (.cmd 0b01011000 [.ds .displayStatus, .absent]) = .ok (.decReply .displayStatus none) ∧
    decode (.cmd 0b01011000 [.ds .displayStatus, .value (.bytes [])]) = .ok (.decReply .displayStatus (some [])) :=
  ⟨rfl, rfl, rfl, rfl, rfl, rfl, rfl⟩

theorem test_decode_transfers :
    decode (.cmd 0b01100000 [.ds .lineNumber, .params [.nat 12]]) = .ok (.xferSend .lineNumber [.nat 12]) ∧
    decode (.cmd 0b01100001 [.value (.bytes [0x78])]) = .ok (.xferSendraw [0x78]) ∧
    decode (.cmd 0b01100010 [.ds .displayStatus, .params [.nat 1]]) = .ok (.xferQuery .displayStatus [.nat 1]) :=
  ⟨rfl, rfl, rfl⟩

theorem test_decode_layouts :
    decode (.wire .trailer [0b00001101, 0x2D]) = .ok (.frameTrailer 0x2D) ∧
    decode (.wire .decimalDigit [0b00111001]) = .ok (.fieldDecimalDigit 9) ∧
    decode (.wire .nibbleChar [0b00111010]) = .ok (.fieldNibbleChar 10) ∧
    decode (.wire .lineNumberBody [0b01101100, 0b00110000, 0b00110001, 0b00110010]) = .ok (.bodyLineNumber 0 1 2) ∧
    decode (.wire .lpNextStopIdBody [0b01111000, 0b01011010, 0b00110001, 0b00111010]) =
      .ok (.bodyLpNextStopId 1 10) ∧
    decode (.wire .destTextHeader [0b01111010, 0b01000001, 0b00111111]) = .ok (.bodyDestTextHeader 15) ∧
    decode (.wire .blockCount [0b00110001]) = .ok (.bodyBlockCount 1) ∧
    decode (.wire .lsaLength [0b00110011]) = .ok (.bodyLsaLength 3) ∧
    decode (.wire .lpconnControl [0b00000011, 0b00000100, 0b00000101]) = .ok .bodyLpconnControl ∧
    decode (.wire .displayStatusBody [0b01100001, 0b00110001]) = .ok (.bodyDisplayStatusReference 1) :=
  ⟨rfl, rfl, rfl, rfl, rfl, rfl, rfl, rfl, rfl, rfl⟩

theorem test_decode_refuses :
    decode (.cmd 0x42 []) = .error (.illegalCommand 0x42) ∧
    decode (.cmd 0x35 [.byte 0]) = .error (.illegalCommand 0x35) ∧
    decode (.wire .decimalDigit [0x3A]) = .error (.noLayout .decimalDigit) ∧
    decode (.wire .nibbleChar [0x41]) = .error (.noLayout .nibbleChar) := ⟨rfl, rfl, rfl, rfl⟩

/-- Table words: the row's bits, its most significant byte the first on the wire (R71, R74). -/
theorem test_table_words :
    decodeTableWord 8 0x62 = some (.xferQuery .lineNumber []) ∧ decodeTableWord 8 0xFF = none ∧
    decodeTableWord 16 0x6131 = some (.bodyDisplayStatusReference 1) ∧
    decodeTableWord 32 0x6C393939 = some (.bodyLineNumber 9 9 9) ∧ decodeTableWord 32 0x6C3A3030 = none := by decide

theorem test_fetch_runs_the_word :
    answer (step (State.reset.withFetchWord 8 0x32)) = some (.ok .unit) ∧
    answer (step (State.reset.withFetchWord 24 0x030405)) = some (.ok (.bytes [0x03, 0x04, 0x05])) := by decide

/-! ### VDVHEX (vectors of R80 to R84) -/

theorem test_vdv_enc : answer (exec (.vdvEnc 12) State.reset) = some (.ok (.byte 0x3C)) := by decide
theorem test_vdv_dec : answer (exec (.vdvDec 0x3A) State.reset) = some (.ok (.nibble 10)) := by decide
theorem test_vdv_dec_letter :
    answer (exec (.vdvDec 0x41) State.reset) = some (.fault (.invalidSymbol 0x41)) := by decide
theorem test_vdv_encw : answer (exec (.vdvEncw 2 26) State.reset) = some (.ok (.bytes [0x31, 0x3A])) := by decide
theorem test_vdv_encw_range :
    answer (exec (.vdvEncw 2 256) State.reset) = some (.fault (.encodingError .nibbleRange 256)) := by decide
theorem test_vdv_decw :
    answer (exec (.vdvDecw [0x30, 0x30, 0x30, 0x30, 0x30, 0x31, 0x32, 0x3A]) State.reset) =
      some (.ok (.nat 298)) := by decide
theorem test_vdv_decw_first_bad :
    answer (exec (.vdvDecw [0x31, 0x41, 0x42]) State.reset) = some (.fault (.invalidSymbol 0x41)) := by decide

/-! ### SCM (vectors of R91, R92) -/

theorem test_scm_chr : answer (exec (.scmChr 0xFC) State.reset) = some (.ok (.byte 0x7D)) := by decide
theorem test_scm_chr_unmapped : answer (exec (.scmChr 0x1E9E) State.reset) = some (.ok (.byte 0x3F)) := by decide
theorem test_scm_str :
    answer (exec (.scmStr munich) State.reset) =
      some (.ok (.bytes [0x4D, 0x7D, 0x6E, 0x63, 0x68, 0x65, 0x6E])) := by decide

/-! ### FRAMER (vectors of R101 to R105, program 4) -/

theorem test_frm_frame :
    answer (exec (.frmFrame [0x6C, 0x30, 0x31, 0x32]) State.reset) =
      some (.ok (.bytes [0x6C, 0x30, 0x31, 0x32, 0x0D, 0x2D])) := by decide
theorem test_frm_frame_open :
    answer (exec (.frmFrame []) (opened 0x5D)) = some (.fault (.phaseFault .body)) := by decide
theorem test_frm_cksum : answer (exec (.frmCksum [0x61, 0x32]) State.reset) = some (.ok (.byte 0x21)) := by decide
theorem test_frm_cksum_empty : answer (exec (.frmCksum []) State.reset) = some (.ok (.byte 0x72)) := by decide
theorem test_frm_start : exec .frmStart State.reset = .next { opened 0x7F with responses := [.ok .unit] } := rfl
theorem test_frm_byte :
    exec (.frmByte 0x6C) (opened 0x7F) = .next { opened 0x13 with responses := [.ok (.byte 0x6C)] } := by rfl
theorem test_frm_end :
    exec .frmEnd (opened 0x5E) = .next { State.reset with responses := [.ok (.bytes [0x0D, 0x53])] } := by rfl
theorem test_frm_end_idle : answer (exec .frmEnd State.reset) = some (.fault (.phaseFault .idle)) := by decide

/-! ### BODYENC (vectors of R121 to R132) -/

theorem test_fld_dec : answer (exec (.fldDec 3 12) State.reset) = some (.ok (.bytes [0x30, 0x31, 0x32])) := by decide
theorem test_fld_dec_negative :
    answer (exec (.fldDec 3 (-1)) State.reset) = some (.fault (.encodingError .decimalNegative (-1))) := by decide
theorem test_fld_txt :
    answer (exec (.fldTxt 4 0x20 .right [0xD6, 0x6C]) State.reset) =
      some (.ok (.bytes [0x20, 0x20, 0x5C, 0x6C])) := by decide
theorem test_fld_txt_long :
    answer (exec (.fldTxt 4 0x20 .left (stop ++ [0x73])) State.reset) =
      some (.fault (.encodingError .textTooLong 5)) := by decide
theorem test_fld_raw :
    answer (exec (.fldRaw 4 0x30 .right [0x41, 0x42]) State.reset) =
      some (.ok (.bytes [0x30, 0x30, 0x41, 0x42])) := by decide
theorem test_fld_raw_unmapped :
    answer (exec (.fldRaw 2 0x20 .left [0xFC, 0x80]) State.reset) = some (.ok (.bytes [0xFC, 0x80])) := by decide
theorem test_enc_fixed :
    answer (exec (.encFixed .lpNextStopId [.nat 26]) State.reset) =
      some (.ok (.bytes [0x78, 0x5A, 0x31, 0x3A])) := by decide
theorem test_enc_fixed_shape :
    (answer (exec (.encFixed .destText [.text stop]) State.reset)).map responseCode = some 0x09 := by decide
theorem test_enc_block :
    answer (exec (.encBlock .destText stop) State.reset) =
      some (.ok (.bytes ([0x7A, 0x41, 0x31, 0x53, 0x74, 0x6F, 0x70] ++ List.replicate 12 0x20))) := by decide
theorem test_enc_block_empty :
    answer (exec (.encBlock .destText []) State.reset) = some (.ok (.bytes [0x7A, 0x41, 0x30])) := by decide
theorem test_enc_lpconn :
    answer (exec (.encLpconn (.openDs 0) (.nat 7) [0x48, 0x62, 0x66] [0x55, 0x32]) State.reset) =
      some (.ok (.bytes ([0x61, 0x4C, 0x31, 0x03, 0x30, 0x37, 0x04, 0x48, 0x62, 0x66, 0x05, 0x55, 0x32] ++
        List.replicate 6 0x20))) := by decide
theorem test_enc_lpconn_overflow :
    answer (exec (.encLpconn (.openDs 0) (.nat 100) [] []) State.reset) =
      some (.fault (.encodingError .decimalOverflow 100)) := by decide
theorem test_enc_lsa :
    answer (exec (.encLsa (.openDs 1) [.nat 2, .nat 15, .nat 37]) State.reset) =
      some (.ok (.bytes [0x61, 0x58, 0x33, 0x32, 0x3F, 0x30, 0x30, 0x33, 0x37])) := by decide
theorem test_enc_lsa_range :
    answer (exec (.encLsa (.openDs 1) [.nat 16, .nat 0, .nat 0]) State.reset) =
      some (.fault (.encodingError .nibbleRange 16)) := by decide

/-! ### REPLYDEC (vectors of R141 to R152) -/

theorem test_rx_strip : answer (exec (.rxStrip [0x61, 0x32, 0xFF, 0xFF]) State.reset) =
    some (.ok (.bytes [0x61, 0x32])) := by decide
theorem test_rx_strip_short :
    (answer (exec (.rxStrip [0x61]) State.reset)) = some (.fault (.parseError .shortReply (.length 1))) := by decide
theorem test_dec_status :
    answer (exec (.decStatus 0x32) State.reset) = some (.ok (.status (.symbol .searching))) := by decide
theorem test_dec_status_raw : answer (exec (.decStatus 0x37) State.reset) = some (.ok (.status (.raw 0x37))) := by decide
theorem test_dec_beacon :
    answer (exec (.decBeacon [0x3D, 0x3E, 0x3A, 0x3D, 0x3B, 0x3E, 0x3E, 0x3F]) State.reset) =
      some (.ok (.nat 3735928559)) := by decide
theorem test_dec_beacon_short :
    (answer (exec (.decBeacon [0x30, 0x30, 0x30, 0x30]) State.reset)).map responseCode = some 0x09 := by decide
theorem test_dec_verstr : answer (exec (.decVerstr [0x56, 0x31, 0x2E, 0x32]) State.reset) =
    some (.ok (.value (.str [0x56, 0x31, 0x2E, 0x32]))) := by decide
theorem test_dec_verint : answer (exec (.decVerint [0x30, 0x30, 0x37]) State.reset) =
    some (.ok (.value (.num 7))) := by decide
theorem test_dec_verint_space : answer (exec (.decVerint [0x20, 0x31, 0x32]) State.reset) =
    some (.fault (.parseError .notANumber (.byte 0x20))) := by decide
theorem test_dec_reply :
    answer (exec (.decReply .displayStatus (some [0x61, 0x32, 0x00, 0x00])) State.reset) =
      some (.ok (.reply (.fields [(.status, .statusV (.symbol .searching))]))) := by decide
theorem test_dec_reply_short :
    answer (exec (.decReply .displayStatus (some [0x61, 0x32, 0x0D])) State.reset) =
      some (.ok (.reply .noReply)) := by decide

/-! ### Transfers (programs 1, 3 and 6) -/

theorem test_xfer_send :
    exec (.xferSend .lineNumber [.nat 12]) (answered .success .timeout) =
      .next { answered .success .timeout with
        sendAnswers := [], out := [[0x6C, 0x30, 0x31, 0x32, 0x0D, 0x2D]]
        buf := [(0, 0x6C), (1, 0x30), (2, 0x31), (3, 0x32)], responses := [.ok .unit] } := by rfl
theorem test_xfer_send_io_error :
    answer (exec (.xferSend .lineNumber [.nat 12]) (answered .ioError .timeout)) =
      some (.fault (.transportError .send)) := by decide
theorem test_xfer_sendraw :
    sent (exec (.xferSendraw [0x78, 0x5A, 0x31, 0x32]) (answered .success .timeout)) =
      [[0x78, 0x5A, 0x31, 0x32, 0x0D, 0x53]] := by decide
theorem test_xfer_query :
    answer (exec (.xferQuery .displayStatus [.nat 1]) (answered .success (.bytes [0x61, 0x37, 0x0D, 0x24]))) =
      some (.ok (.reply (.fields [(.status, .statusV (.raw 0x37))]))) := by decide
theorem test_xfer_query_stale :
    answer (exec (.xferQuery .displayStatus [.nat 2])
      (answered .success (.bytes [0x76, 0x30, 0x31, 0x32, 0x33, 0x0D, 0x04]))) =
      some (.ok (.reply (.fields [(.status, .statusV (.raw 0x30))]))) := by decide

/-! ### Wire layouts -/

theorem test_layouts :
    answer (exec (.frameTrailer 0x2D) State.reset) = some (.ok (.bytes [0x0D, 0x2D])) ∧
    answer (exec (.fieldDecimalDigit 7) State.reset) = some (.ok (.bytes [0x37])) ∧
    answer (exec (.fieldNibbleChar 12) State.reset) = some (.ok (.bytes [0x3C])) ∧
    answer (exec (.bodyLineNumber 0 1 2) State.reset) = some (.ok (.bytes [0x6C, 0x30, 0x31, 0x32])) ∧
    answer (exec (.bodyLpNextStopId 1 2) State.reset) = some (.ok (.bytes [0x78, 0x5A, 0x31, 0x32])) ∧
    answer (exec (.bodyDestTextHeader 1) State.reset) = some (.ok (.bytes [0x7A, 0x41, 0x31])) ∧
    answer (exec (.bodyBlockCount 15) State.reset) = some (.ok (.bytes [0x3F])) ∧
    answer (exec (.bodyLsaLength 3) State.reset) = some (.ok (.bytes [0x33])) ∧
    answer (exec .bodyLpconnControl State.reset) = some (.ok (.bytes [0x03, 0x04, 0x05])) ∧
    answer (exec (.bodyDisplayStatusReference 1) State.reset) = some (.ok (.bytes [0x61, 0x31])) := by decide

/-! ### Witnesses: for each statement with hypotheses, a concrete state and operands that meet them, clause by clause -/

/-- The reset state with one further row of `DS_TABLE`, under key 9. -/
def withRow (r : Row) : State := { State.reset with cfg := { Config.reference with openRows := [(9, r)] } }

/-- The reset state with a configured `LPCONN_COMPOSE`. -/
def withGaps (g : LpGaps) : State := { State.reset with cfg := { Config.reference with lpCompose := .gaps g } }

/-- The row of key 0 of the reference configuration. -/
def lpRow : Row := ⟨.lpconn ⟨2, 0x30, .right, .decimal⟩ .b16, [0x61, 0x4C], none⟩

/-- A row whose LSA inner body has 31 bytes, one too many. -/
def longLsa : Row := ⟨.lsa [⟨31, 0x20, .left, .text⟩], [0x61], none⟩

/-- A row with a reply of kind `int`, read by a query without operands. -/
def intReply : ReplySpec := ⟨7, [⟨.version, 1, 4, .int⟩]⟩

/-- The row of key 4 of the reference configuration, which has that reply. -/
def intRow : Row := ⟨.fixed [], [0x76], some intReply⟩

theorem witness_decodeOfEncode : (Instr.bodyLineNumber 9 0 9).wellFormed = true := by decide

theorem witness_decodedWireBytes : decode (.wire .trailer [0x0D, 0xFF]) = .ok (.frameTrailer 0xFF) := rfl

theorem witness_reservedOpcode :
    (queued [.cmd 0x42 [.byte 7]]).requests = .cmd 0x42 [.byte 7] :: [] ∧ (queued [.cmd 0x42 [.byte 7]]).blen = 0 ∧
    (queued [.cmd 0x42 [.byte 7]]).rlen = 0 ∧
    ∀ op ∈ ([0x00, 0x0F, 0x35, 0x42, 0x63, 0xFF] : List Byte),
      op ∉ ([0x10, 0x11, 0x12, 0x13, 0x20, 0x21, 0x30, 0x31, 0x32, 0x33, 0x34, 0x40, 0x41, 0x43, 0x48, 0x49, 0x4A,
        0x4B, 0x50, 0x51, 0x52, 0x53, 0x54, 0x58, 0x60, 0x61, 0x62] : List Byte) := by decide

theorem witness_mismatchedOperands :
    (queued [.cmd 0x10 [.byte 3]]).requests = .cmd 0x10 [.byte 3] :: [] ∧
    decode (.cmd 0x10 [.byte 3]) = .error (.operands 0x10 (some 0)) ∧
    decode (.cmd 0x31 []) = .error (.operands 0x31 none) ∧ (opened 0x5D).ph = .body ∧
    decode (.cmd 0x33 []) = .error (.operands 0x33 none) ∧ State.reset.ph = .idle :=
  ⟨rfl, rfl, rfl, rfl, rfl, rfl⟩

/-- An unknown data set before the operand's type (R133), a query's capacity before it (R164), and the index else. -/
theorem witness_mismatchedOperands_of_a_row :
    (decode (.cmd 0x49 [.ds (.openDs 7), .value (.nat 1)]) = .error (.operands 0x49 (some 1)) ∧
      dsRow State.reset.cfg (.openDs 7) = none ∧
      answer (step (queued [.cmd 0x49 [.ds (.openDs 7), .value (.nat 1)]])) =
        some (.fault (.unknownDs (.openDs 7)))) ∧
    (decode (.cmd 0x62 [.ds (.openDs 4), .value (.nat 1)]) = .error (.operands 0x62 (some 1)) ∧
      dsRow (capped 0 6).cfg (.openDs 4) = some intRow ∧ intRow.reply = some intReply ∧
      (capped 0 6).cfg.rbufCap = some 6 ∧ 6 < intReply.rlen) ∧
    (decode (.cmd 0x49 [.ds .destText, .value (.nat 1)]) = .error (.operands 0x49 (some 1)) ∧
      dsRow State.reset.cfg .destText = some rowDestText ∧ rowServes 0x49 rowDestText = true ∧
      answer (step (queued [.cmd 0x49 [.ds .destText, .value (.nat 1)]])) =
        some (.fault (.paramFault (some 1) none))) :=
  ⟨⟨rfl, rfl, rfl⟩, ⟨rfl, rfl, rfl, rfl, by decide⟩, rfl, rfl, rfl, rfl⟩

theorem witness_stepExecutes :
    (queued [.cmd 0x32 [], .cmd 0x34 []]).requests = .cmd 0x32 [] :: [.cmd 0x34 []] ∧
    decode (.cmd 0x32 []) = .ok .frmStart := ⟨rfl, rfl⟩

theorem witness_stepWaits : State.reset.requests = [] := rfl

theorem witness_vdvDec_sides :
    (0x30 : Byte).extractLsb' 4 4 = 0x3#4 ∧ (0x3F : Byte).extractLsb' 4 4 = 0x3#4 ∧
    (0x2F : Byte).extractLsb' 4 4 ≠ 0x3#4 ∧ (0x40 : Byte).extractLsb' 4 4 ≠ 0x3#4 := by decide

theorem witness_vdvEncw_clauses :
    (0 < 1 ∨ 8 < 0) ∧ (9 < 1 ∨ 8 < 9) ∧ (1 ≤ 1 ∧ 1 ≤ 8 ∧ 16 ^ 1 ≤ 16) ∧
    (1 ≤ 8 ∧ 8 ≤ 8 ∧ 2 ^ 32 - 1 < 16 ^ 8) := by decide

theorem witness_vdvDecw_clauses :
    (([] : Bytes).length < 1 ∨ 8 < ([] : Bytes).length) ∧ 8 < (List.replicate 9 (0x30 : Byte)).length ∧
    (1 ≤ (List.replicate 8 (0x3F : Byte)).length ∧ (List.replicate 8 (0x3F : Byte)).length ≤ 8 ∧
      ∀ c ∈ List.replicate 8 (0x3F : Byte), c.extractLsb' 4 4 = 0x3#4) ∧
    ([0x31, 0x41, 0x42] : Bytes) = [0x31] ++ 0x41 :: [0x42] ∧ (∀ b ∈ ([0x31] : Bytes), b.extractLsb' 4 4 = 0x3#4) ∧
    (0x41 : Byte).extractLsb' 4 4 ≠ 0x3#4 := by decide

theorem witness_nibbleRoundTrips :
    (1 ≤ 8 ∧ 8 ≤ 8 ∧ 2 ^ 32 - 1 < 16 ^ 8) ∧ ((0x30 : Byte) ≤ 0x3F ∧ (0x3F : Byte) ≤ 0x3F) ∧
    (1 ≤ ([0x30, 0x3F] : Bytes).length ∧ ([0x30, 0x3F] : Bytes).length ≤ 8 ∧
      ∀ c ∈ ([0x30, 0x3F] : Bytes), 0x30 ≤ c ∧ c ≤ 0x3F) := by decide

theorem witness_scmStr : munich[6]? = some 0x6E := by decide

theorem witness_sanitizeLaws :
    (∀ cp ∈ stop, cp ≤ 0x7F) ∧ ([0x80, 0x7F, 0xE4] : Text)[0]? = some 0x80 ∧ (0x80 : CodePoint) ≠ 0x3F :=
  ⟨by simp [stop], rfl, by decide⟩

theorem witness_frmFrame_and_cksum :
    Memory.wf State.reset.buf ∧ (opened 0x5D).ph = .body ∧ Memory.wf (opened 0x5D).buf ∧ (capped 3 0).ph = .idle ∧
    (capped 3 0).cfg.bufCap = some 3 ∧ 3 < ([0x6C, 0x30, 0x31, 0x32] : Bytes).length ∧
    (∀ k, (capped 4 0).cfg.bufCap = some k → ([0x6C, 0x30, 0x31, 0x32] : Bytes).length ≤ k) := by
  refine ⟨by decide, rfl, by decide, rfl, rfl, by decide, ?_⟩
  rintro k ⟨⟩
  decide

theorem witness_streamedFraming :
    (queued ((Instr.frmStart :: (([0x78, 0x0D] : Bytes).map Instr.frmByte ++ [Instr.frmEnd])).map encode)).requests =
      [.cmd 0x32 [], .cmd 0x33 [.byte 0x78], .cmd 0x33 [.byte 0x0D], .cmd 0x34 []] ∧
    (queued []).ph = .idle ∧ (queued []).ck = 0x7F := ⟨rfl, rfl, rfl⟩

theorem witness_framedTelegramLaws :
    Memory.wf (capped 1 0).buf ∧ (capped 1 0).ph = .idle ∧
    (∀ k, (capped 1 0).cfg.bufCap = some k → ([0x0D] : Bytes).length ≤ k) ∧
    (frameOf [0x0D])[0]? = some 0x0D ∧ (frameOf [0x0D])[2]? = some 0x7F ∧ 7 < 8 := by
  refine ⟨by decide, rfl, ?_, by decide, by decide, by decide⟩
  rintro k ⟨⟩
  decide

theorem witness_sevenBit :
    (∀ b ∈ ([0x00, 0x7F] : Bytes), b ≤ 0x7F) ∧ (opened 0x7F).ck ≤ 0x7F ∧
    exec (.frmByte 0x7F) (opened 0x7F) = .next { opened 0x00 with responses := [.ok (.byte 0x7F)] } :=
  ⟨by decide, by decide, rfl⟩

theorem witness_fldDec_clauses :
    0 < 1 ∧ (1 ≤ 1 ∧ (-1 : IntVal).toInt < 0) ∧ (1 ≤ 3 ∧ (10 : Int) ^ 3 ≤ (1000 : IntVal).toInt) ∧
    (1 ≤ 3 ∧ 0 ≤ (999 : IntVal).toInt ∧ (999 : IntVal).toInt < (10 : Int) ^ 3) := by decide

theorem witness_fldTxt_and_fldRaw_clauses :
    0 < 1 ∧ (1 ≤ 3 ∧ 3 < stop.length) ∧ (1 ≤ 4 ∧ stop.length ≤ 4) ∧
    (1 ≤ 1 ∧ 1 < ([0xFC, 0x80] : Bytes).length) ∧ (1 ≤ 2 ∧ ([0xFC, 0x80] : Bytes).length ≤ 2) := by decide

theorem witness_decimalRoundTrips :
    (1 ≤ 3 ∧ 999 < 10 ^ 3) ∧
    (999 ≤ 999 ∧ bodyFixed Config.reference .lineNumber [.nat 999] = .ok [0x6C, 0x39, 0x39, 0x39]) :=
  ⟨by decide, by decide, rfl⟩

theorem witness_laidOutField :
    layField ⟨3, 0x30, .right, .decimal⟩ (.int 999) = .ok [0x39, 0x39, 0x39] ∧
    layField ⟨1, 0x20, .left, .text⟩ (.text [0xE4]) = .ok [0x7B] ∧
    layField ⟨2, 0x20, .left, .nibble⟩ (.nat 255) = .ok [0x3F, 0x3F] ∧
    layField ⟨2, 0x20, .left, .raw⟩ (.bytes [0xFF]) = .ok [0xFF, 0x20] ∧ (∃ b, Operand.bytes [0xFF] = .bytes b) ∧
    (2 ^ 31 - 1 < 2 ^ 31 ∧ layField ⟨3, 0x30, .right, .decimal⟩ (.nat 999) = .ok [0x39, 0x39, 0x39]) ∧
    (2 ^ 31 ≤ 2 ^ 31 ∧ layField ⟨3, 0x30, .right, .decimal⟩ (.nat (2 ^ 31)) = .error (.paramFault none none)) ∧
    (∀ t, Operand.nat 1 ≠ .text t) ∧ (∀ n, Operand.int 1 ≠ .nat n) ∧ ∀ b, Operand.text [] ≠ .bytes b :=
  ⟨rfl, rfl, rfl, rfl, ⟨_, rfl⟩, ⟨by decide, rfl⟩, ⟨by decide, rfl⟩, by simp, by simp, by simp⟩

theorem witness_encFixed :
    Memory.wf (capped 4 0).buf ∧ dsRow (capped 4 0).cfg .lineNumber = some rowLineNumber ∧
    rowLineNumber.shape = .fixed [⟨3, 0x30, .right, .decimal⟩] ∧
    List.Forall₂ (fun fx piece => layField fx.1 fx.2 = .ok piece)
      ([(⟨3, 0x30, .right, .decimal⟩ : FieldSpec)].zip [Operand.nat 12]) [[0x30, 0x31, 0x32]] ∧
    ∀ k, (capped 4 0).cfg.bufCap = some k → rowLineNumber.pre.length + [[0x30, 0x31, (0x32 : Byte)]].flatten.length ≤ k := by
  refine ⟨by decide, rfl, rfl, .cons rfl .nil, ?_⟩
  rintro k ⟨⟩
  decide

theorem witness_encBlock :
    Memory.wf (capped 243 0).buf ∧ dsRow (capped 243 0).cfg .destText = some rowDestText ∧
    rowDestText.shape = .block .b16 ∧
    (241 ≤ 16 * BlockSize.b16.bytes ∧ 16 * BlockSize.b16.bytes < 241 + BlockSize.b16.bytes ∧ 15 < 16) ∧
    (240 ≤ 15 * BlockSize.b16.bytes ∧ 15 * BlockSize.b16.bytes < 240 + BlockSize.b16.bytes ∧ 15 ≤ 15) ∧
    ∀ k, (capped 243 0).cfg.bufCap = some k → rowDestText.pre.length + 1 + 15 * BlockSize.b16.bytes ≤ k := by
  refine ⟨by decide, rfl, rfl, by decide, by decide, ?_⟩
  rintro k ⟨⟩
  decide

theorem witness_encLpconn :
    Memory.wf (capped 19 0).buf ∧
    dsRow (capped 19 0).cfg (.openDs 0) = some ⟨.lpconn ⟨2, 0x30, .right, .decimal⟩ .b16, [0x61, 0x4C], none⟩ ∧
    layField ⟨2, 0x30, .right, .decimal⟩ (.nat 7) = .ok [0x30, 0x37] ∧
    (capped 19 0).cfg.lpCompose = .gaps ⟨[0x03], [0x04], [0x05], []⟩ ∧
    ∀ k, (capped 19 0).cfg.bufCap = some k → ([0x61, 0x4C] : List Char7).length + 1 + 1 * BlockSize.b16.bytes ≤ k := by
  refine ⟨by decide, rfl, rfl, rfl, ?_⟩
  rintro k ⟨⟩
  decide

/-- A stop id of 2 bytes, three control bytes and a text of 236: one byte more than 15 blocks hold. -/
theorem witness_encLpconn_too_long :
    ([0x03] ++ [0x30, 0x37] ++ [0x04] ++ sanitize (List.replicate 236 0x41) ++ [0x05] ++ sanitize [] ++ []).length =
      241 ∧
    (241 ≤ 16 * BlockSize.b16.bytes ∧ 16 * BlockSize.b16.bytes < 241 + BlockSize.b16.bytes ∧ 15 < 16) :=
  ⟨by simp only [sanitize, List.length_append, List.length_map, List.length_replicate, List.length_cons, List.length_nil],
    by decide⟩

/-- Configured gaps that meet the constraint are used; gaps that repeat a control byte are not (log entry 12). -/
theorem witness_encLpconn_configured_gaps :
    answer (exec (.encLpconn (.openDs 0) (.nat 7) [0x48] [0x55]) (withGaps ⟨[], [0x03, 0x20], [0x04], [0x05]⟩)) =
      some (.ok (.bytes ([0x61, 0x4C, 0x31, 0x30, 0x37, 0x03, 0x20, 0x48, 0x04, 0x55, 0x05] ++
        List.replicate 8 0x20))) ∧
    lpGaps (withGaps ⟨[0x03], [0x04], [0x05], [0x03]⟩).cfg intRow (.nat 7) [] [] = .ok Config.referenceGaps ∧
    lpGaps (withGaps ⟨[0x03], [0x04], [0x05], [0x80]⟩).cfg intRow (.nat 7) [] [] = .ok Config.referenceGaps := by
  decide

theorem witness_encLsa_too_long :
    Memory.wf (withRow longLsa).buf ∧ dsRow (withRow longLsa).cfg (.openDs 9) = some longLsa ∧
    List.Forall₂ (fun fx piece => layField fx.1 fx.2 = .ok piece)
      ([(⟨31, 0x20, .left, .text⟩ : FieldSpec)].zip [Operand.text []]) [List.replicate 31 0x20] ∧
    30 < [List.replicate 31 (0x20 : Byte)].flatten.length :=
  ⟨by decide, rfl, .cons rfl .nil, by decide⟩

theorem witness_encLsa_fits :
    dsRow (capped 9 0).cfg (.openDs 1) = some ⟨.lsa [⟨1, 0x30, .right, .nibble⟩, ⟨1, 0x30, .right, .nibble⟩,
      ⟨4, 0x30, .right, .decimal⟩], [0x61, 0x58], none⟩ ∧
    List.Forall₂ (fun fx piece => layField fx.1 fx.2 = .ok piece)
      ([(⟨1, 0x30, .right, .nibble⟩ : FieldSpec), ⟨1, 0x30, .right, .nibble⟩, ⟨4, 0x30, .right, .decimal⟩].zip
        [Operand.nat 2, .nat 15, .nat 37]) [[0x32], [0x3F], [0x30, 0x30, 0x33, 0x37]] ∧
    ∀ k, (capped 9 0).cfg.bufCap = some k → ([0x61, 0x58] : List Char7).length + 1 + 6 ≤ k := by
  refine ⟨rfl, .cons rfl (.cons rfl (.cons rfl .nil)), ?_⟩
  rintro k ⟨⟩
  decide

theorem witness_pinnedFixedRows :
    (∀ k, (capped 4 0).cfg.bufCap = some k → 4 ≤ k) ∧ (999 < 1000 ∧ 1000 < 2 ^ 31) ∧ (-1 : IntVal).toInt < 0 ∧
    999 ≤ 999 ∧ 255 ≤ 255 ∧ 255 < 256 := by
  refine ⟨?_, by decide, by decide, by decide, by decide, by decide⟩
  rintro k ⟨⟩
  decide

theorem witness_firstFault :
    dsRow State.reset.cfg (.openDs 7) = none ∧
    (dsRow State.reset.cfg .lineNumber = some rowLineNumber ∧ ([] : List Operand).length ≠ 1 ∧
      rowDestText.shape = .block .b16) ∧
    (rowLineNumber.shape = .fixed ([] ++ ⟨3, 0x30, .right, .decimal⟩ :: []) ∧
      layField ⟨3, 0x30, .right, .decimal⟩ (.nat 1000) = .error (.encodingError .decimalOverflow 1000)) ∧
    ((capped 3 0).cfg.bufCap = some 3 ∧
      3 < rowLineNumber.pre.length + [[0x30, 0x31, (0x32 : Byte)]].flatten.length) :=
  ⟨rfl, ⟨rfl, by decide, rfl⟩, ⟨rfl, rfl⟩, rfl, by decide⟩

theorem witness_firstFault_of_block_text :
    (∀ size, rowLineNumber.shape ≠ .block size) ∧ dsRow (capped 18 0).cfg .destText = some rowDestText ∧
    rowDestText.shape = .block .b16 ∧
    (stop.length ≤ 1 * BlockSize.b16.bytes ∧ 1 * BlockSize.b16.bytes < stop.length + BlockSize.b16.bytes ∧ 1 ≤ 15) ∧
    (capped 18 0).cfg.bufCap = some 18 ∧ 18 < rowDestText.pre.length + 1 + 1 * BlockSize.b16.bytes :=
  ⟨by simp [rowLineNumber], rfl, rfl, by decide, rfl, by decide⟩

/-- The stop id's fault, its type fault with the index of the stop id, and a capacity one byte short. -/
theorem witness_firstFault_of_a_connection :
    (∀ spec size, rowDestText.shape ≠ .lpconn spec size) ∧ dsRow (capped 18 0).cfg (.openDs 0) = some lpRow ∧
    lpRow.shape = .lpconn ⟨2, 0x30, .right, .decimal⟩ .b16 ∧
    layField ⟨2, 0x30, .right, .decimal⟩ (.nat 100) = .error (.encodingError .decimalOverflow 100) ∧
    answer (exec (.encLpconn (.openDs 0) (.text []) [] []) State.reset) = some (.fault (.paramFault (some 1) none)) ∧
    composeLp (capped 18 0).cfg lpRow ⟨2, 0x30, .right, .decimal⟩ (.nat 7) [] [] =
      .ok [0x03, 0x30, 0x37, 0x04, 0x05] ∧
    (5 ≤ 1 * BlockSize.b16.bytes ∧ 1 * BlockSize.b16.bytes < 5 + BlockSize.b16.bytes ∧ 1 ≤ 15) ∧
    (capped 18 0).cfg.bufCap = some 18 ∧ 18 < lpRow.pre.length + 1 + 1 * BlockSize.b16.bytes :=
  ⟨by simp [rowDestText], rfl, rfl, rfl, rfl, rfl, by decide, rfl, by decide⟩

theorem witness_encodeBody_each_shape :
    encodeBody State.reset.cfg .lineNumber [.nat 12] = .ok [0x6C, 0x30, 0x31, 0x32] ∧
    encodeBody State.reset.cfg .destText [.text []] = .ok [0x7A, 0x41, 0x30] ∧
    encodeBody State.reset.cfg (.openDs 0) [.nat 7, .text [], .text []] =
      .ok ([0x61, 0x4C, 0x31, 0x03, 0x30, 0x37, 0x04, 0x05] ++ List.replicate 11 0x20) ∧
    encodeBody State.reset.cfg (.openDs 1) [.nat 2, .nat 15, .nat 37] =
      .ok [0x61, 0x58, 0x33, 0x32, 0x3F, 0x30, 0x30, 0x33, 0x37] ∧
    dsRow State.reset.cfg (.openDs 7) = none ∧ (∀ x, [Operand.nat 1] ≠ [.text x]) ∧
    (∀ x a b, [Operand.nat 1, .nat 2, .text []] ≠ [x, .text a, .text b]) ∧
    encodeBody State.reset.cfg (.openDs 0) [.nat 100, .text [], .text []] =
      .error (.encodingError .decimalOverflow 100) := ⟨rfl, rfl, rfl, rfl, rfl, by simp, by simp, rfl⟩

theorem witness_sevenBitBodies :
    dsRow Config.reference .lineNumber = some rowLineNumber ∧
    (∀ f ∈ [(⟨3, 0x30, .right, .decimal⟩ : FieldSpec)], f.kind ≠ .raw) ∧
    encodeBody Config.reference .lineNumber [.nat 12] = .ok [0x6C, 0x30, 0x31, 0x32] ∧
    dsRow Config.reference (.openDs 0) = some lpRow ∧ (⟨2, 0x30, .right, .decimal⟩ : FieldSpec).kind ≠ .raw ∧
    ∃ body, encodeBody Config.reference (.openDs 0) [.nat 7, .text munich, .text []] = .ok body :=
  ⟨rfl, by decide, rfl, rfl, by decide, _, rfl⟩

theorem witness_rxStrip : ([] : Bytes).length < 2 ∧ ([0x61] : Bytes).length < 2 := by decide

theorem witness_decStatus :
    (0x33 : Byte) ≠ 0x32 ∧ State.reset.cfg.openStatus.lookup 0x33 = none ∧
    ([(0x30, .ok)] : List (Byte × StatusSymbol)).lookup 0x30 = some .ok := by decide

theorem witness_decBeacon :
    (List.replicate 7 (0x30 : Byte)).length ≠ 8 ∧ (List.replicate 9 (0x30 : Byte)).length ≠ 8 ∧
    ((List.replicate 8 (0x3F : Byte)).length = 8 ∧ ∀ c ∈ List.replicate 8 (0x3F : Byte), c.extractLsb' 4 4 = 0x3#4) ∧
    (List.replicate 7 (0x30 : Byte) ++ 0x41 :: []).length = 8 := by decide

theorem witness_versions :
    ([0x30, 0x39] : Bytes) ≠ [] ∧ (∀ c ∈ ([0x30, 0x39] : Bytes), 0x30 ≤ c ∧ c ≤ 0x39) ∧
    ((0x2F : Byte) < 0x30 ∨ 0x39 < (0x2F : Byte)) ∧ ((0x3A : Byte) < 0x30 ∨ 0x39 < (0x3A : Byte)) := by decide

theorem witness_decReplyWithoutWhole :
    dsRow State.reset.cfg (.openDs 7) = none ∧ dsRow State.reset.cfg .lineNumber = some rowLineNumber ∧
    rowLineNumber.reply = none ∧ dsRow (capped 0 6).cfg (.openDs 4) = some intRow ∧ intRow.reply = some intReply ∧
    ((List.replicate 6 (0x30 : Byte)).length < intReply.rlen ∧
      ∀ k, (capped 0 6).cfg.rbufCap = some k → (List.replicate 6 (0x30 : Byte)).length ≤ k) ∧
    intReply.rlen < (List.replicate 8 (0x30 : Byte)).length ∧
    ((List.replicate 7 (0x30 : Byte)).length ≤ intReply.rlen ∧ (capped 0 6).cfg.rbufCap = some 6 ∧
      6 < (List.replicate 7 (0x30 : Byte)).length) := by
  refine ⟨rfl, rfl, rfl, rfl, rfl, ⟨by decide, ?_⟩, by decide, by decide, rfl, by decide⟩
  rintro k ⟨⟩
  decide

theorem witness_decReplyWhole :
    Memory.wf (capped 0 7).rbuf ∧ dsRow (capped 0 7).cfg (.openDs 4) = some intRow ∧ intRow.reply = some intReply ∧
    ([0x76, 0x30, 0x31, 0x32, 0x33, 0x0D, 0x04] : Bytes).length = intReply.rlen ∧
    (∀ k, (capped 0 7).cfg.rbufCap = some k → ([0x76, 0x30, 0x31, 0x32, 0x33, 0x0D, 0x04] : Bytes).length ≤ k) ∧
    List.Forall₂ (fun f v => decField (capped 0 7).cfg f [0x76, 0x30, 0x31, 0x32, 0x33] = .ok v) intReply.rfields
      [.num 123] ∧
    intReply.rfields = [] ++ ⟨.version, 1, 4, .int⟩ :: [] ∧
    decField (capped 0 7).cfg ⟨.version, 1, 4, .int⟩ [0x76, 0x56, 0x31, 0x2E, 0x32] =
      .error (.parseError .notANumber (.byte 0x56)) := by
  refine ⟨by decide, rfl, rfl, by decide, ?_, .cons rfl .nil, rfl, rfl⟩
  rintro k ⟨⟩
  decide

/-- A row whose reply has one field of each kind. -/
def kindsRow : Row := ⟨.fixed [], [0x76], some ⟨7, [⟨.status, 0, 1, .status⟩, ⟨.version, 1, 1, .raw⟩,
  ⟨.other 0, 2, 1, .int⟩, ⟨.id, 3, 2, .nibble⟩]⟩⟩

theorem witness_decReply_each_kind :
    dsRow (withRow kindsRow).cfg (.openDs 9) = some kindsRow ∧
    answer (exec (.decReply (.openDs 9) (some [0x32, 0x56, 0x37, 0x31, 0x3F, 0x0D, 0x00])) (withRow kindsRow)) =
      some (.ok (.reply (.fields [(.status, .statusV (.symbol .searching)), (.version, .str [0x56]),
        (.other 0, .num 7), (.id, .num 31)]))) ∧
    answer (exec (.decReply (.openDs 9) (some [0x32, 0x56, 0x37, 0x31, 0x41, 0x0D, 0x00])) (withRow kindsRow)) =
      some (.fault (.invalidSymbol 0x41)) ∧
    answer (exec (.decReply .displayStatus (some [0x61, 0x32, 0x00, 0x00, 0x00])) State.reset) =
      some (.fault (.paramFault (some 1) none)) := by decide

theorem witness_replyTrailer :
    Memory.wf State.reset.rbuf ∧ dsRow State.reset.cfg (.openDs 4) = some intRow ∧ intRow.reply = some intReply ∧
    ([0x76, 0x30, 0x31, 0x32, 0x33] : Bytes).length + 2 = intReply.rlen ∧
    (∃ a, exec (.decReply (.openDs 4) (some ([0x76, 0x30, 0x31, 0x32, 0x33] ++ [0x0D, 0x04]))) State.reset = .next a) ∧
    ∃ b, exec (.decReply (.openDs 4) (some ([0x76, 0x30, 0x31, 0x32, 0x33] ++ [0xFF, 0x00]))) State.reset = .next b :=
  ⟨by decide, rfl, rfl, by decide, ⟨_, rfl⟩, _, rfl⟩

theorem witness_xferSend :
    Memory.wf (answered .success .timeout).buf ∧ (answered .success .timeout).ph = .idle ∧
    dsRow (answered .success .timeout).cfg .lineNumber = some rowLineNumber ∧ rowLineNumber.reply = none ∧
    encodeBody (answered .success .timeout).cfg .lineNumber [.nat 12] = .ok [0x6C, 0x30, 0x31, 0x32] ∧
    nextSend (answered .success .timeout) = .success ∧ nextSend (answered .ioError .timeout) = .ioError :=
  ⟨by decide, rfl, rfl, rfl, rfl, rfl, rfl⟩

theorem witness_xferSendraw :
    Memory.wf (capped 4 0).buf ∧ (capped 3 0).ph = .idle ∧ (capped 3 0).cfg.bufCap = some 3 ∧
    3 < ([0x78, 0x5A, 0x31, 0x32] : Bytes).length ∧
    (∀ k, (capped 4 0).cfg.bufCap = some k → ([0x78, 0x5A, 0x31, 0x32] : Bytes).length ≤ k) := by
  refine ⟨by decide, rfl, rfl, by decide, ?_⟩
  rintro k ⟨⟩
  decide

theorem witness_xferQuery :
    Memory.wf (answered .success (.bytes [0x76])).buf ∧ Memory.wf (answered .success (.bytes [0x76])).rbuf ∧
    (answered .success .timeout).ph = .idle ∧
    dsRow (answered .success .timeout).cfg (.openDs 4) = some intRow ∧ intRow.reply = some intReply ∧
    encodeBody (answered .success .timeout).cfg (.openDs 4) [] = .ok [0x76] ∧
    (∀ k, (answered .success .timeout).cfg.rbufCap = some k → intReply.rlen ≤ k) ∧
    nextSend (answered .ioError .timeout) = .ioError ∧ nextRecv (answered .success .ioError) = .ioError ∧
    nextRecv (answered .success .timeout) = .timeout ∧
    nextRecv (answered .success (.bytes [0x76])) = .bytes [0x76] ∧
    ([0x76] : Bytes).length < intReply.rlen ∧
    answer (exec (.xferQuery (.openDs 4) []) (answered .success (.bytes [0x76, 0x30, 0x31, 0x32, 0x33, 0x0D, 0x04]))) =
      some (.ok (.reply (.fields [(.version, .num 123)]))) ∧
    answer (exec (.xferQuery (.openDs 4) []) (answered .success (.bytes [0x76, 0x56, 0x31, 0x32, 0x33, 0x0D, 0x04]))) =
      some (.fault (.parseError .notANumber (.byte 0x56))) := by
  refine ⟨by decide, by decide, rfl, rfl, rfl, rfl, ?_, rfl, rfl, rfl, rfl, by decide, rfl, rfl⟩
  rintro k ⟨⟩

theorem witness_transferFaults :
    State.reset.ph = .idle ∧ dsRow State.reset.cfg (.openDs 7) = none ∧
    dsRow (capped 0 6).cfg (.openDs 4) = some intRow ∧ intRow.reply = some intReply ∧
    (capped 0 6).cfg.rbufCap = some 6 ∧ 6 < intReply.rlen ∧
    (∀ k, (capped 0 7).cfg.rbufCap = some k → intReply.rlen ≤ k) ∧
    encodeBody (capped 0 7).cfg (.openDs 4) [] = .error (.capacityFault .buf) ∧
    dsRow State.reset.cfg .lineNumber = some rowLineNumber ∧ rowLineNumber.reply = none ∧
    encodeBody State.reset.cfg .lineNumber [.nat 1000] = .error (.encodingError .decimalOverflow 1000) := by
  refine ⟨rfl, rfl, rfl, rfl, rfl, by decide, ?_, rfl, rfl, rfl, rfl⟩
  rintro k ⟨⟩
  decide

theorem witness_phaseFault :
    (opened 0x5D).ph = .body ∧
    Instr.xferSendraw [] ∈ [Instr.frmFrame [], .frmCksum [], .frmStart, .xferSend .lineNumber [], .xferSendraw [],
      .xferQuery .lineNumber []] ∧
    State.reset.ph = .idle ∧ Instr.frmEnd ∈ [Instr.frmByte 0, .frmEnd] := by decide

theorem witness_faultsLeaveTheRegisters :
    Quiescent (answered .ioError .timeout) ∧
    (∃ t, exec (.xferSend .lineNumber [.nat 12]) (answered .ioError .timeout) = .next t ∧
      t.responses = (answered .ioError .timeout).responses ++ [.fault (.transportError .send)]) ∧
    (∃ t, exec (.xferSend .lineNumber [.nat 1000]) (answered .ioError .timeout) = .next t ∧
      t.responses = (answered .ioError .timeout).responses ++ [.fault (.encodingError .decimalOverflow 1000)]) ∧
    faultCode (.encodingError .decimalOverflow 1000) = 0x02 :=
  ⟨⟨rfl, rfl, fun _ => rfl⟩, ⟨_, rfl, rfl⟩, ⟨_, rfl, rfl⟩, rfl⟩

theorem witness_invariantAndStep :
    MachineInv (queued [.cmd 0x31 [.value (.bytes [0x61])]]) ∧
    ∃ t, step (queued [.cmd 0x31 [.value (.bytes [0x61])]]) = .next t ∧ t.buf = [(0, 0x61)] := by
  refine ⟨⟨⟨rfl, rfl, fun _ => rfl⟩, ⟨by decide, ?_⟩, ⟨by decide, ?_⟩, ?_⟩, _, rfl, rfl⟩
  · rintro k ⟨⟩
  · rintro k ⟨⟩
  · exact fun bs h => absurd h (by simp [queued, State.reset])

theorem witness_onlyTransfers :
    Memory.wf (answered .success .timeout).buf ∧ isTransfer .frmStart = false ∧
    ∃ t, exec (.xferSendraw []) (answered .success .timeout) = .next t ∧ t.out = [[0x0D, 0x72]] :=
  ⟨by decide, rfl, _, rfl, rfl⟩

theorem witness_oneResponse :
    (queued [.cmd 0x32 []]).requests = .cmd 0x32 [] :: [] ∧ ∃ t, step (queued [.cmd 0x32 []]) = .next t :=
  ⟨rfl, _, rfl⟩

theorem witness_phaseChanges :
    (∃ t, exec .frmStart State.reset = .next t ∧ t.ph ≠ State.reset.ph) ∧
    ∃ t, exec .frmEnd (opened 0x5E) = .next t ∧ t.ph ≠ (opened 0x5E).ph :=
  ⟨⟨_, rfl, by decide⟩, _, rfl, by decide⟩

theorem witness_inputsAlone :
    (State.reset.ph = (answered .success .timeout).ph ∧ State.reset.cfg = (answered .success .timeout).cfg) ∧
    isTransfer (.frmFrame [0x6C]) = false ∧ isStreamed (.frmFrame [0x6C]) = false ∧
    (nextSend (answered .success .timeout) = nextSend { answered .success .timeout with drawn := 5, ck := 0x55 } ∧
      nextRecv (answered .success .timeout) = nextRecv { answered .success .timeout with drawn := 5, ck := 0x55 }) ∧
    SameInputs State.reset { State.reset with ck := 0x55, buf := [(0, 0x61)], out := [[0x0D, 0x72]] } ∧
    Memory.wf [((0 : Nat), (0x61 : Byte))] :=
  ⟨⟨rfl, rfl⟩, rfl, rfl, ⟨rfl, rfl⟩, ⟨rfl, rfl, rfl, rfl, rfl⟩, by decide⟩

theorem witness_runsNeverStop :
    ∀ r ∈ (queued [.cmd 0x42 [], .cmd 0x34 []]).requests, ∃ op args, r = .cmd op args := by
  simp [queued]

theorem witness_wireLayouts : (9 : Nibble) ≤ 9 ∧ (9 : Nibble) < 10 ∧
    ([9, 10, 15] : List Nibble).find? (fun x => 9 < x) = some 10 := by decide

theorem witness_pinnedBodies :
    encodeBody Config.reference .lineNumber [.nat 999] = .ok [0x6C, 0x39, 0x39, 0x39] ∧
    encodeBody Config.reference .lpNextStopId [.nat 255] = .ok [0x78, 0x5A, 0x3F, 0x3F] ∧
    encodeBody Config.reference .destText [.text []] = .ok [0x7A, 0x41, 0x30] := ⟨rfl, rfl, rfl⟩

end Sys2Proof.Tests
end

section
/-! PROOF. The nibble codec (spec/40_vdvhex.md R81, R82, R85). The idea of the round trips is that a number below
`16 ^ k` and its `k` nibble characters determine each other: `decwFrom` reads back what `nibbleChars` writes, and every
text over the alphabet is written by `nibbleChars` from some number. -/

namespace Sys2Proof.Machine

/-! ### One character -/

/-- The alphabet as an interval: the high nibble is 3 exactly for the bytes 0x30 to 0x3F (R80). -/
theorem highNibble_eq_three_iff : ∀ c : Byte, c.extractLsb' 4 4 = 0x3#4 ↔ 0x30 ≤ c ∧ c ≤ 0x3F := by decide

theorem nibbleChar_lowNibble : ∀ c : Byte, c.extractLsb' 4 4 = 0x3#4 → nibbleChar (c.extractLsb' 0 4) = c := by decide

theorem nibbleChar_le_0x7F : ∀ n : Nibble, nibbleChar n ≤ 0x7F := by decide

@[simp] theorem dec_nibbleChar (n : Nibble) : dec (nibbleChar n) = .ok n := by
  simp [dec, charNibble_nibbleChar]

/-- `enc` undoes `dec` on the alphabet (R85). -/
theorem exists_dec_eq_of_alphabet {c : Byte} (h : 0x30 ≤ c ∧ c ≤ 0x3F) : ∃ n, dec c = .ok n ∧ nibbleChar n = c :=
  have h3 := (highNibble_eq_three_iff c).mpr h
  ⟨c.extractLsb' 0 4, dec_ok h3, nibbleChar_lowNibble c h3⟩

theorem dec_defined_iff (c : Byte) : (∃ n, dec c = .ok n) ↔ 0x30 ≤ c ∧ c ≤ 0x3F := by
  rw [← highNibble_eq_three_iff]
  constructor
  · rintro ⟨n, hn⟩
    by_contra h
    simp [dec_error h] at hn
  · exact fun h => ⟨_, dec_ok h⟩

/-! ### Many characters -/

@[simp] theorem nibbleChars_zero (v : Nat) : nibbleChars 0 v = [] := rfl

@[simp] theorem nibbleChars_length (k v : Nat) : (nibbleChars k v).length = k := by
  simp [nibbleChars]

theorem decwFrom_nibbleChar_cons (n : Nibble) (cs : Bytes) (v : BitVec 32) :
    decwFrom (nibbleChar n :: cs) v = decwFrom cs (v ||| (n.setWidth 32 <<< (cs.length * 4))) := by
  simp [decwFrom]

/-- The last `k` nibbles of a number do not depend on what stands above them. -/
theorem nibbleChars_add_mul (k a v : Nat) : nibbleChars k (a * 16 ^ k + v) = nibbleChars k v := by
  induction k generalizing a with
  | zero => rfl
  | succ k ih =>
    have hsplit : a * 16 ^ (k + 1) + v = a * 16 * 16 ^ k + v := by ring
    have hdiv : (a * 16 * 16 ^ k + v) / 16 ^ k = a * 16 + v / 16 ^ k := by
      rw [Nat.add_comm, Nat.add_mul_div_right _ _ (by positivity), Nat.add_comm]
    have hhead : BitVec.ofNat 4 (a * 16 + v / 16 ^ k) = BitVec.ofNat 4 (v / 16 ^ k) := by
      apply BitVec.eq_of_toNat_eq
      simp only [BitVec.toNat_ofNat]
      omega
    rw [nibbleChars_succ, nibbleChars_succ, hsplit, hdiv, hhead, ih]

/-- Or-ing a nibble in below a number whose low `k + 1` nibbles are clear is adding it at its position (R84). -/
theorem or_shiftLeft_nibble {d : Nat} (a k : Nat) (hd : d < 16) :
    a * 16 ^ (k + 1) ||| d <<< (k * 4) = (a * 16 + d) * 16 ^ k := by
  have hpow (j : Nat) : 2 ^ (4 * j) = 16 ^ j := Nat.pow_mul 2 4 j
  have hlow : d * 16 ^ k < 2 ^ (4 * (k + 1)) := by
    rw [hpow, Nat.pow_succ, Nat.mul_comm (16 ^ k)]
    exact Nat.mul_lt_mul_of_pos_right hd (by positivity)
  calc a * 16 ^ (k + 1) ||| d <<< (k * 4)
      = 2 ^ (4 * (k + 1)) * a ||| d * 16 ^ k := by
        rw [Nat.shiftLeft_eq, Nat.mul_comm k 4, hpow, hpow, Nat.mul_comm a]
    _ = 2 ^ (4 * (k + 1)) * a + d * 16 ^ k := (Nat.two_pow_add_eq_or_of_lt hlow a).symm
    _ = (a * 16 + d) * 16 ^ k := by rw [hpow]; ring

theorem or_nibble_eq_add (a d k : Nat) :
    BitVec.ofNat 32 (a * 16 ^ (k + 1)) ||| ((BitVec.ofNat 4 d).setWidth 32 <<< (k * 4)) =
      BitVec.ofNat 32 ((a * 16 + d % 16) * 16 ^ k) := by
  have hnibble : (BitVec.ofNat 4 d).setWidth 32 <<< (k * 4) = BitVec.ofNat 32 ((d % 16) <<< (k * 4)) := by
    apply BitVec.eq_of_toNat_eq
    have hsmall : d % 16 < 4294967296 := by omega
    simp [Nat.mod_eq_of_lt hsmall]
  rw [hnibble, ← BitVec.ofNat_or, or_shiftLeft_nibble a k (Nat.mod_lt d (by decide))]

/-- What `decw`'s fold reads from `k` nibble characters below the nibbles already read, `a` (R84). -/
theorem decwFrom_nibbleChars (k a v : Nat) (h : (a + 1) * 16 ^ k ≤ 2 ^ 32) :
    decwFrom (nibbleChars k v) (BitVec.ofNat 32 (a * 16 ^ k)) = .ok (a * 16 ^ k + v % 16 ^ k) := by
  induction k generalizing a with
  | zero =>
    have ha : a < 4294967296 := by omega
    simpa [decwFrom, Nat.mod_one] using ha
  | succ k ih =>
    have hd : v / 16 ^ k % 16 + 1 ≤ 16 := Nat.mod_lt _ (by decide)
    have hroom : (a * 16 + v / 16 ^ k % 16 + 1) * 16 ^ k ≤ 2 ^ 32 :=
      calc (a * 16 + v / 16 ^ k % 16 + 1) * 16 ^ k
          ≤ ((a + 1) * 16) * 16 ^ k := Nat.mul_le_mul_right _ (by omega)
        _ = (a + 1) * 16 ^ (k + 1) := by ring
        _ ≤ 2 ^ 32 := h
    rw [nibbleChars_succ, decwFrom_nibbleChar_cons, nibbleChars_length, or_nibble_eq_add, ih _ hroom,
      Nat.mod_pow_succ]
    congr 1
    ring

theorem decw_eq_decwFrom {cs : Bytes} (h1 : 1 ≤ cs.length) (h8 : cs.length ≤ 8) : decw cs = decwFrom cs 0 := by
  rw [decw, if_neg (by omega)]

/-- `decw` reads back what `encw` writes (R85). -/
theorem decw_nibbleChars {k v : Nat} (h1 : 1 ≤ k) (h8 : k ≤ 8) (hv : v < 16 ^ k) :
    decw (nibbleChars k v) = .ok v := by
  have hroom : (0 + 1) * 16 ^ k ≤ 2 ^ 32 := by
    simpa using Nat.pow_le_pow_right (n := 16) (by decide) h8
  have hread := decwFrom_nibbleChars k 0 v hroom
  rw [decw_eq_decwFrom (by simpa using h1) (by simpa using h8)]
  simpa [Nat.mod_eq_of_lt hv] using hread

/-- Every text over the alphabet is the nibble characters of a number of as many nibbles (R85). -/
theorem exists_eq_nibbleChars {cs : Bytes} (h : ∀ c ∈ cs, 0x30 ≤ c ∧ c ≤ 0x3F) :
    ∃ v, v < 16 ^ cs.length ∧ nibbleChars cs.length v = cs := by
  induction cs with
  | nil => exact ⟨0, by simp⟩
  | cons c cs ih =>
    obtain ⟨hc, hcs⟩ := List.forall_mem_cons.mp h
    obtain ⟨n, -, hn⟩ := exists_dec_eq_of_alphabet hc
    obtain ⟨v, hv, hchars⟩ := ih hcs
    have hdiv : (n.toNat * 16 ^ cs.length + v) / 16 ^ cs.length = n.toNat := by
      rw [Nat.add_comm, Nat.add_mul_div_right _ _ (by positivity), Nat.div_eq_of_lt hv, Nat.zero_add]
    refine ⟨n.toNat * 16 ^ cs.length + v, ?_, ?_⟩
    · calc n.toNat * 16 ^ cs.length + v
          < (n.toNat + 1) * 16 ^ cs.length := by rw [Nat.add_one_mul]; omega
        _ ≤ 16 * 16 ^ cs.length := Nat.mul_le_mul_right _ n.isLt
        _ = 16 ^ (c :: cs).length := by rw [List.length_cons, Nat.pow_succ, Nat.mul_comm]
    · rw [List.length_cons, nibbleChars_succ, hdiv, nibbleChars_add_mul, hchars, BitVec.ofNat_toNat, BitVec.setWidth_eq,
        hn]

/-! ### The operations -/

theorem exec_vdvEnc (n : Nibble) (s : State) : exec (.vdvEnc n) s = .next (respond (.byte (nibbleChar n)) s) := rfl

theorem exec_vdvDec (c : Byte) (s : State) : exec (.vdvDec c) s = .next (finish .nibble (dec c) s) := rfl

/-! ### The statements -/

/-- Settles O12: the one-character laws are those of `dec` and `nibbleChar`, the many-character ones those of
`nibbleChars`, which writes every text over the alphabet and is read back by `decw`. -/
theorem nibbleCodecRoundTrips : Obligations.NibbleCodecRoundTrips := by
  refine ⟨dec_nibbleChar, fun c hlo hhi => exists_dec_eq_of_alphabet ⟨hlo, hhi⟩, dec_defined_iff, ?many, ?text⟩
  case many =>
    intro k v h1 h8 hv
    exact ⟨nibbleChars k v, encw_ok h1 h8 hv, decw_nibbleChars h1 h8 hv⟩
  case text =>
    intro cs h1 h8 halpha
    obtain ⟨v, hv, hchars⟩ := exists_eq_nibbleChars halpha
    have hread := decw_nibbleChars h1 h8 hv
    have hwrite := encw_ok h1 h8 hv
    rw [hchars] at hread hwrite
    exact ⟨v, hread, hwrite⟩

/-- Settles O8: opcode, answer and frame are the model's own definition, the bound is one over the sixteen nibbles. -/
theorem vdvEncAnswersTheNibbleChar : Obligations.VdvEncAnswersTheNibbleChar :=
  fun n s => ⟨rfl, exec_vdvEnc n s, nibbleChar_le_0x7F n⟩

/-- Settles O9, by the two branches of `dec`. -/
theorem vdvDecAnswersTheNibbleOrInvalidSymbol : Obligations.VdvDecAnswersTheNibbleOrInvalidSymbol := by
  intro c s
  refine ⟨rfl, ?_⟩
  rw [exec_vdvDec]
  split
  · next h => rw [dec_ok h, finish_ok]; rfl
  · next h => rw [dec_error h, finish_error, raise_eq]; rfl

end Sys2Proof.Machine
end

section
/-! PROOF. The special-character mapper (spec/41_special_char.md R90 to R92). `scm` is the table with the coercion to ASCII
as its default, so its value is read off row by row; `sanitize` is `scm` at every position. -/

namespace Sys2Proof.Machine

/-! ### One character -/

/-- A table with a default is a chain of tests, one for each row. -/
theorem getD_lookup_cons (cp k : CodePoint) (b d : Byte) (rows : List (CodePoint × Byte)) :
    (((k, b) :: rows).lookup cp).getD d = if cp = k then b else (rows.lookup cp).getD d := by
  by_cases h : cp = k
  · simp [h]
  · simp [h, List.lookup_cons, beq_false_of_ne h]

/-- The seven bits `cp[6:0]` are the whole of an ASCII code point (R91). -/
theorem lowSevenBits_of_ascii {cp : CodePoint} (h : cp ≤ 0x7F) :
    (cp.extractLsb' 0 7).setWidth 8 = (cp.setWidth 8 : Byte) := by
  have hlt : cp.toNat < 128 := Nat.lt_succ_of_le h
  apply BitVec.eq_of_toNat_eq
  simp only [BitVec.toNat_setWidth, BitVec.extractLsb'_toNat, Nat.shiftRight_zero]
  omega

theorem scm_of_lookup_some {cp : CodePoint} {b : Byte} (h : subst.lookup cp = some b) : scm cp = b := by
  simp only [scm, h]

/-- Outside the table a character is coerced to ASCII (R91). -/
theorem scm_of_lookup_none {cp : CodePoint} (h : subst.lookup cp = none) :
    scm cp = if cp ≤ 0x7F then cp.setWidth 8 else 0x3F := by
  simp only [scm, h]
  split
  · next hascii => exact lowSevenBits_of_ascii hascii
  · rfl

/-- `scm` is the table with the coercion to ASCII as its default. -/
theorem scm_eq_getD (cp : CodePoint) :
    scm cp = (subst.lookup cp).getD (if cp ≤ 0x7F then cp.setWidth 8 else 0x3F) := by
  cases h : subst.lookup cp with
  | none => exact scm_of_lookup_none h
  | some b => exact scm_of_lookup_some h

/-! ### The operations -/

theorem exec_scmChr (cp : CodePoint) (s : State) : exec (.scmChr cp) s = .next (respond (.byte (scm cp)) s) := rfl

theorem exec_scmStr (t : Text) (s : State) : exec (.scmStr t) s = .next (respond (.bytes (sanitize t)) s) := rfl

theorem getElem?_sanitize (t : Text) (i : Nat) : (sanitize t)[i]? = t[i]?.map scm :=
  List.getElem?_map

/-! ### The statements -/

/-- Settles O13: the answer is `scm cp`, whose table lookup is read row by row. -/
theorem scmChrAnswersTheMappedCharacter : Obligations.ScmChrAnswersTheMappedCharacter := by
  intro cp s
  refine ⟨rfl, ?_⟩
  rw [exec_scmChr, scm_eq_getD]
  simp only [subst, getD_lookup_cons, List.lookup_nil, Option.getD_none, respond]

/-- Settles O14: the answer is `sanitize t`, which maps each code point by the `scm` that `SCM.CHR` answers. -/
theorem scmStrMapsEveryCharacter : Obligations.ScmStrMapsEveryCharacter := by
  intro t s
  refine ⟨rfl, sanitize t, exec_scmStr t s, sanitize_length t, ?_⟩
  intro i cp hcp
  have hbyte : (sanitize t)[i]? = some (scm cp) := by rw [getElem?_sanitize, hcp, Option.map_some]
  exact ⟨scm cp, hbyte, exec_scmChr cp s⟩

end Sys2Proof.Machine
end

section
/-! PROOF. The framer (spec/42_framer.md R101 to R104, R107). The laws of a framed telegram all come from one fact about
`xorAll`: changing one byte by a mask changes the exclusive-or of the whole sequence by that mask. -/

namespace Sys2Proof.Machine

/-! ### The exclusive-or of a byte sequence -/

@[simp] theorem xorAll_nil : xorAll [] = 0#8 := rfl

/-- A fold that starts at `c` is `c` and the exclusive-or of the bytes folded. -/
theorem foldl_xor_eq_xor_xorAll (c : Byte) (bs : Bytes) : bs.foldl (fun c b => c ^^^ b) c = c ^^^ xorAll bs := by
  have hassoc : bs.foldl (· ^^^ ·) (c ^^^ 0#8) = c ^^^ xorAll bs := List.foldl_assoc
  rwa [BitVec.xor_zero] at hassoc

@[simp] theorem xorAll_cons (b : Byte) (bs : Bytes) : xorAll (b :: bs) = b ^^^ xorAll bs := by
  rw [xorAll, List.foldl_cons, foldl_xor_eq_xor_xorAll]
  exact congrArg (· ^^^ xorAll bs) BitVec.zero_xor

@[simp] theorem xorAll_append (as bs : Bytes) : xorAll (as ++ bs) = xorAll as ^^^ xorAll bs := by
  rw [xorAll, List.foldl_append, foldl_xor_eq_xor_xorAll, ← xorAll]

/-- Changing one byte by a mask changes the exclusive-or of the sequence by that mask (R107). -/
theorem xorAll_set_xor {bs : Bytes} {i : Nat} {b : Byte} (h : bs[i]? = some b) (mask : Byte) :
    xorAll (bs.set i (b ^^^ mask)) = xorAll bs ^^^ mask := by
  induction bs generalizing i with
  | nil => simp at h
  | cons x bs ih =>
    cases i with
    | zero =>
      obtain rfl : x = b := by simpa using h
      rw [List.set_cons_zero, xorAll_cons, xorAll_cons, BitVec.xor_assoc, BitVec.xor_comm mask, BitVec.xor_assoc]
    | succ i =>
      rw [List.set_cons_succ, xorAll_cons, ih (by simpa using h), xorAll_cons, BitVec.xor_assoc]

theorem xorAll_set_xor_ne {bs : Bytes} {i : Nat} {b mask : Byte} (h : bs[i]? = some b) (hm : mask ≠ 0#8) :
    xorAll (bs.set i (b ^^^ mask)) ≠ xorAll bs := by
  rw [xorAll_set_xor h]
  exact fun heq => hm ((BitVec.xor_right_inj _).mp (heq.trans BitVec.xor_zero.symm))

/-- The same mask at two places cancels (R107). -/
theorem xorAll_set_xor_set_xor {bs : Bytes} {i j : Nat} {a b : Byte} (hij : i ≠ j) (ha : bs[i]? = some a)
    (hb : bs[j]? = some b) (mask : Byte) :
    xorAll ((bs.set i (a ^^^ mask)).set j (b ^^^ mask)) = xorAll bs := by
  have hb' : (bs.set i (a ^^^ mask))[j]? = some b := by rw [List.getElem?_set_ne hij, hb]
  rw [xorAll_set_xor hb', xorAll_set_xor ha, BitVec.xor_assoc, BitVec.xor_self, BitVec.xor_zero]

theorem oneBit_ne_zero {k : Nat} (hk : k < 8) : 1#8 <<< k ≠ 0#8 := by
  revert k
  decide

/-! ### The framed telegram -/

/-- The checksum is the fold of the body and the terminator from the seed (R100). -/
theorem cksum_eq_foldl (body : Bytes) : cksum body = (body ++ [0x0D]).foldl (fun c b => c ^^^ b) 0x7F := by
  rw [List.foldl_append]
  rfl

/-- The checksum is the value that brings the exclusive-or of a frame to the seed (R107). -/
theorem xorAll_frameOf (body : Bytes) : xorAll (frameOf body) = 0x7F := by
  have hsum : cksum body = 0x7F ^^^ xorAll (body ++ [0x0D]) := by rw [cksum_eq_foldl, foldl_xor_eq_xor_xorAll]
  calc xorAll (frameOf body)
      = xorAll (body ++ [0x0D] ++ [cksum body]) := by rw [List.append_assoc]; rfl
    _ = xorAll (body ++ [0x0D]) ^^^ cksum body := by
        rw [xorAll_append, xorAll_cons, xorAll_nil, BitVec.xor_zero]
    _ = 0x7F := by rw [hsum, BitVec.xor_comm, BitVec.xor_assoc, BitVec.xor_self, BitVec.xor_zero]

theorem take_frameOf (body : Bytes) : (frameOf body).take body.length = body := by
  simp [frameOf]

theorem frameOf_terminator (body : Bytes) : (frameOf body)[body.length]? = some 0x0D := by
  simp [frameOf]

theorem frameOf_checksum (body : Bytes) : (frameOf body)[body.length + 1]? = some (cksum body) := by
  simp [frameOf]

/-! ### The operations -/

/-- `FRM.FRAME` of a body that fits, with no streamed frame open (R101). -/
theorem exec_frmFrame_ok {body : Bytes} {s : State} (hw : Memory.wf s.buf) (hp : s.ph = .idle)
    (hf : fits s.cfg.bufCap body.length = true) :
    exec (.frmFrame body) s = .next { s with
      buf := memWriteN s.buf 0 body, blen := 0, ck := 0x7F
      responses := s.responses ++ [.ok (.bytes (frameOf body))] } := by
  have hframe : exec (.frmFrame body) s = .next (foldWhole body (fun t => .bytes (framed t)) s) := rfl
  rw [hframe, foldWhole_ok hp hf, framed_fold hw]

theorem exec_frmStart (s : State) :
    exec .frmStart s = .next (whenIdle s fun s => respond .unit { s with ck := seed, ph := .body }) := rfl

theorem exec_frmByte (b : Byte) (s : State) :
    exec (.frmByte b) s = .next (whenBody s fun s => respond (.byte b) { s with ck := s.ck ^^^ b }) := rfl

theorem exec_frmEnd (s : State) :
    exec .frmEnd s =
      .next (whenBody s fun s => respond (.bytes [term, s.ck ^^^ term]) { s with ck := seed, ph := .idle }) := rfl

/-! ### The statements -/

/-- Settles O22: the answer is `frameOf body`, whose exclusive-or is the seed; a change of one bit moves it by that bit,
and the same change at two places cancels. -/
theorem framedTelegramLaws : Obligations.FramedTelegramLaws := by
  intro body s hw hp hcap
  refine ⟨_, frameOf body, exec_frmFrame_ok hw hp (fits_of_le hcap), rfl, frameOf_length body, take_frameOf body,
    frameOf_terminator body, ?fold, xorAll_frameOf body, ?oneBit, ?twoBits⟩
  case fold => rw [frameOf_checksum, cksum_eq_foldl]
  case oneBit =>
    intro i k b hb hk
    rw [← xorAll_frameOf body]
    exact xorAll_set_xor_ne hb (oneBit_ne_zero hk)
  case twoBits =>
    intro i j k a b hij ha hb _
    rw [xorAll_set_xor_set_xor hij ha hb, xorAll_frameOf]

/-- Settles O18, by the two outcomes of the phase test. -/
theorem frmStartOpensAFrame : Obligations.FrmStartOpensAFrame := by
  intro s
  refine ⟨rfl, ?_⟩
  rw [exec_frmStart]
  split
  · next h => rw [whenIdle_idle h]; rfl
  · next h => rw [whenIdle_body h]; rfl

/-- Settles O19, by the two outcomes of the phase test. -/
theorem frmByteFoldsAndPassesTheByte : Obligations.FrmByteFoldsAndPassesTheByte := by
  intro b s
  refine ⟨rfl, ?_⟩
  rw [exec_frmByte]
  split
  · next h => rw [whenBody_body h]; rfl
  · next h => rw [whenBody_idle h]; rfl

/-- Settles O20, by the two outcomes of the phase test. -/
theorem frmEndClosesTheFrame : Obligations.FrmEndClosesTheFrame := by
  intro s
  refine ⟨rfl, ?_⟩
  rw [exec_frmEnd]
  split
  · next h => rw [whenBody_body h]; rfl
  · next h => rw [whenBody_idle h]; rfl

end Sys2Proof.Machine
end

section
/-! PROOF. The decimal field and the pinned `FIXED` rows (spec/43_body_encoder.md R121, R125 to R127, R136). `parse_int`
reads decimal characters as Horner's rule writes them, so the round trip is one induction on the width; a `FIXED` row of
one field answers its prefix and that field, or that field's fault. -/

namespace Sys2Proof.Machine

/-! ### Decimal characters -/

@[simp] theorem decimalChars_zero (v : Nat) : decimalChars 0 v = [] := rfl

@[simp] theorem decimalChars_length (w v : Nat) : (decimalChars w v).length = w := by
  simp [decimalChars]

/-- One digit of `parse_int` (R147): the value read so far moves up by a power of ten. -/
theorem parseDigits_digit_cons {d : Nat} (hd : d < 10) (cs : Bytes) (acc : Nat) :
    parseDigits ((0x30 + BitVec.ofNat 8 d) :: cs) acc = parseDigits cs (acc * 10 + d) := by
  have hdigit : ∀ d < 10, ¬ ((0x30 : Byte) + BitVec.ofNat 8 d < 0x30 ∨ (0x39 : Byte) < 0x30 + BitVec.ofNat 8 d) ∧
      ((0x30 : Byte) + BitVec.ofNat 8 d - 0x30).toNat = d := by decide
  obtain ⟨hrange, hvalue⟩ := hdigit d hd
  rw [parseDigits, if_neg hrange, hvalue]

/-- What `parse_int` reads from `w` decimal characters below the digits already read, `acc` (R136, R147). -/
theorem parseDigits_decimalChars (w acc v : Nat) :
    parseDigits (decimalChars w v) acc = .ok (acc * 10 ^ w + v % 10 ^ w) := by
  induction w generalizing acc with
  | zero => simp [parseDigits, Nat.mod_one]
  | succ w ih =>
    rw [decimalChars_succ, parseDigits_digit_cons (Nat.mod_lt _ (by decide)), ih, Nat.mod_pow_succ]
    congr 1
    ring

theorem parseInt_eq_parseDigits {b : Bytes} (h : b ≠ []) : parseInt b = parseDigits b 0 := by
  cases b with
  | nil => contradiction
  | cons c cs => rfl

/-- `parse_int` reads back what `fdec` writes (R136). -/
theorem parseInt_decimalChars {w v : Nat} (h1 : 1 ≤ w) (hv : v < 10 ^ w) : parseInt (decimalChars w v) = .ok v := by
  have hne : decimalChars w v ≠ [] := List.ne_nil_of_length_pos (by rwa [decimalChars_length])
  rw [parseInt_eq_parseDigits hne, parseDigits_decimalChars, Nat.mod_eq_of_lt hv, Nat.zero_mul, Nat.zero_add]

theorem decimalChars_three {v : Nat} (hv : v ≤ 999) :
    decimalChars 3 v =
      [0x30 + BitVec.ofNat 8 (v / 100), 0x30 + BitVec.ofNat 8 (v / 10 % 10), 0x30 + BitVec.ofNat 8 (v % 10)] := by
  have hhundreds : v / 100 % 10 = v / 100 := Nat.mod_eq_of_lt (by omega)
  simp [decimalChars_succ, hhundreds]

/-! ### Formatters -/

/-- `fdec` of a number its width holds (R121). -/
theorem fdec_natCast {w v : Nat} (h1 : 1 ≤ w) (hv : v < 10 ^ w) : fdec w v = .ok (decimalChars w v) := by
  rw [fdec_ok h1 (by omega) (by exact_mod_cast hv), Int.toNat_natCast]

theorem fdec_overflow {w v : Nat} (h1 : 1 ≤ w) (hv : 10 ^ w ≤ v) :
    fdec w v = .error (.encodingError .decimalOverflow v) := by
  have hint : (10 : Int) ^ w ≤ v := by exact_mod_cast hv
  rw [fdec, if_neg (by omega), if_neg (by omega), if_pos hint]

theorem fdec_negative {w : Nat} {v : Int} (h1 : 1 ≤ w) (hv : v < 0) :
    fdec w v = .error (.encodingError .decimalNegative v) := by
  rw [fdec, if_neg (by omega), if_pos hv]

theorem encw_overflow {k v : Nat} (h1 : 1 ≤ k) (h8 : k ≤ 8) (hv : 16 ^ k ≤ v) :
    encw k v = .error (.encodingError .nibbleRange v) := by
  rw [encw, if_neg (by omega), if_pos hv]

theorem nibbleChar_ofNat (v : Nat) : nibbleChar (BitVec.ofNat 4 v) = 0x30 ||| BitVec.ofNat 8 (v % 16) := by
  have hwide : (BitVec.ofNat 4 v).setWidth 8 = BitVec.ofNat 8 (v % 16) := by
    apply BitVec.eq_of_toNat_eq
    simp
  rw [nibbleChar, hwide]

theorem nibbleChars_two {v : Nat} (hv : v ≤ 255) :
    nibbleChars 2 v = [0x30 ||| BitVec.ofNat 8 (v / 16), 0x30 ||| BitVec.ofNat 8 (v % 16)] := by
  have hhigh : v / 16 % 16 = v / 16 := Nat.mod_eq_of_lt (by omega)
  simp [nibbleChars_succ, nibbleChar_ofNat, hhigh]

/-! ### Laid-out fields -/

theorem toInt_ofNat_of_lt {v : Nat} (hv : v < 2 ^ 31) : (BitVec.ofNat 32 v).toInt = v := by
  have htoNat : (BitVec.ofNat 32 v).toNat = v := by rw [BitVec.toNat_ofNat, Nat.mod_eq_of_lt (by omega)]
  rw [BitVec.toInt_eq_toNat_of_lt (by omega), htoNat]

/-- A decimal field takes a number as a `Nat` or as an `Int` alike (R125, log entry 10). -/
theorem layField_decimal_natOrInt {f : FieldSpec} {v : Nat} {x : Operand} (hk : f.kind = .decimal) (hv : v < 2 ^ 31)
    (hx : x = .nat v ∨ x = .int (BitVec.ofNat 32 v)) : layField f x = unindexed (fdec f.width v) := by
  obtain rfl | rfl := hx
  · simp only [layField, hk, if_pos hv]
  · simp only [layField, hk, toInt_ofNat_of_lt hv]

theorem layField_decimal_int {f : FieldSpec} (hk : f.kind = .decimal) (v : IntVal) :
    layField f (.int v) = unindexed (fdec f.width v.toInt) := by
  simp only [layField, hk]

theorem layField_nibble_nat {f : FieldSpec} (hk : f.kind = .nibble) (v : Nat) :
    layField f (.nat v) = unindexed (encw f.width v) := by
  simp only [layField, hk]

/-! ### `ENC.FIXED` of a row of one field -/

theorem layFields_singleton (f : FieldSpec) (x : Operand) : layFields [f] [x] = layField f x := by
  simp only [layFields]
  cases layField f x <;> simp

/-- A `FIXED` row of one field that fits: the prefix and the field (R126). -/
theorem bodyFixed_single_ok {cfg : Config} {ds : DsId} {row : Row} {f : FieldSpec} {x : Operand} {piece : Bytes}
    (hd : dsRow cfg ds = some row) (hs : row.shape = .fixed [f]) (hp : layField f x = .ok piece) :
    bodyFixed cfg ds [x] = capBody cfg (prefixBytes row ++ piece) := by
  simp [bodyFixed, hd, hs, layFields_singleton, hp]

/-- A `FIXED` row of one field that does not fit: the field's fault (R126). -/
theorem bodyFixed_single_error {cfg : Config} {ds : DsId} {row : Row} {f : FieldSpec} {x : Operand} {c : Cause}
    (hd : dsRow cfg ds = some row) (hs : row.shape = .fixed [f]) (hp : layField f x = .error c) :
    bodyFixed cfg ds [x] = .error c := by
  simp [bodyFixed, hd, hs, layFields_singleton, hp]

theorem capBody_ok {cfg : Config} {body : Bytes} (h : fits cfg.bufCap body.length = true) :
    capBody cfg body = .ok body := by
  rw [capBody, if_pos h]

theorem exec_encFixed (ds : DsId) (params : List Operand) (s : State) :
    exec (.encFixed ds params) s = .next (finishBody (.encFixed ds params) (bodyFixed s.cfg ds params) s) := rfl

/-- The response of `ENC.FIXED` to one operand that its row's one field lays out (R126). -/
theorem exec_encFixed_single_ok {s : State} {ds : DsId} {row : Row} {f : FieldSpec} {x : Operand} {piece : Bytes}
    (hd : dsRow s.cfg ds = some row) (hs : row.shape = .fixed [f]) (hp : layField f x = .ok piece)
    (hf : fits s.cfg.bufCap (prefixBytes row ++ piece).length = true) :
    ∃ t, exec (.encFixed ds [x]) s = .next t ∧
      t.responses = s.responses ++ [.ok (.bytes (prefixBytes row ++ piece))] := by
  rw [exec_encFixed, bodyFixed_single_ok hd hs hp, capBody_ok hf, finishBody_ok]
  exact ⟨_, rfl, rfl⟩

/-- The response of `ENC.FIXED` to one operand outside the range of its row's one field (R126, R172). -/
theorem exec_encFixed_single_error {s : State} {ds : DsId} {row : Row} {f : FieldSpec} {x : Operand}
    {sub : EncodingSub} {v : Int} (hd : dsRow s.cfg ds = some row) (hs : row.shape = .fixed [f])
    (hp : layField f x = .error (.encodingError sub v)) :
    ∃ t, exec (.encFixed ds [x]) s = .next t ∧ t.responses = s.responses ++ [.fault (.encodingError sub v)] := by
  rw [exec_encFixed, bodyFixed_single_error hd hs hp, finishBody_error]
  exact ⟨_, rfl, rfl⟩

/-! ### The pinned rows of one field -/

/-- The one field of the pinned row `LINE_NUMBER` (R71). -/
def lineNumberField : FieldSpec := ⟨3, 0x30, .right, .decimal⟩

/-- The one field of the pinned row `LP_NEXT_STOP_ID` (R71). -/
def lpNextStopIdField : FieldSpec := ⟨2, 0x30, .right, .nibble⟩

theorem dsRow_lineNumber (cfg : Config) : dsRow cfg .lineNumber = some rowLineNumber := rfl

theorem dsRow_lpNextStopId (cfg : Config) : dsRow cfg .lpNextStopId = some rowLpNextStopId := rfl

theorem rowLineNumber_shape : rowLineNumber.shape = .fixed [lineNumberField] := rfl

theorem rowLpNextStopId_shape : rowLpNextStopId.shape = .fixed [lpNextStopIdField] := rfl

@[simp] theorem prefixBytes_rowLineNumber : prefixBytes rowLineNumber = [0x6C] := rfl

@[simp] theorem prefixBytes_rowLpNextStopId : prefixBytes rowLpNextStopId = [0x78, 0x5A] := rfl

theorem layField_lineNumber_ok {v : Nat} {x : Operand} (hv : v ≤ 999)
    (hx : x = .nat v ∨ x = .int (BitVec.ofNat 32 v)) : layField lineNumberField x = .ok (decimalChars 3 v) := by
  have hfits : fdec 3 v = .ok (decimalChars 3 v) := fdec_natCast (by decide) (by omega)
  rw [layField_decimal_natOrInt rfl (by omega) hx, lineNumberField, hfits]
  rfl

theorem layField_lineNumber_overflow {v : Nat} {x : Operand} (h999 : 999 < v) (hv : v < 2 ^ 31)
    (hx : x = .nat v ∨ x = .int (BitVec.ofNat 32 v)) :
    layField lineNumberField x = .error (.encodingError .decimalOverflow v) := by
  have hover : fdec 3 v = .error (.encodingError .decimalOverflow v) := fdec_overflow (by decide) (by omega)
  rw [layField_decimal_natOrInt rfl hv hx, lineNumberField, hover]
  rfl

theorem layField_lineNumber_negative {v : IntVal} (hv : v.toInt < 0) :
    layField lineNumberField (.int v) = .error (.encodingError .decimalNegative v.toInt) := by
  rw [layField_decimal_int rfl, lineNumberField, fdec_negative (by decide) hv]
  rfl

theorem layField_lpNextStopId_ok {v : Nat} (hv : v ≤ 255) :
    layField lpNextStopIdField (.nat v) = .ok (nibbleChars 2 v) := by
  have hfits : encw 2 v = .ok (nibbleChars 2 v) := encw_ok (by decide) (by decide) (by omega)
  rw [layField_nibble_nat rfl, lpNextStopIdField, hfits]
  rfl

theorem layField_lpNextStopId_overflow {v : Nat} (hv : 255 < v) :
    layField lpNextStopIdField (.nat v) = .error (.encodingError .nibbleRange v) := by
  have hover : encw 2 v = .error (.encodingError .nibbleRange v) := encw_overflow (by decide) (by decide) (by omega)
  rw [layField_nibble_nat rfl, lpNextStopIdField, hover]
  rfl

/-! ### The statements -/

/-- Settles O27: `fdec` writes `decimalChars`, which `parse_int` reads back; the body of `LINE_NUMBER` is its prefix and
three of them. -/
theorem decimalFieldRoundTrips : Obligations.DecimalFieldRoundTrips := by
  constructor
  · intro w v h1 hv
    exact ⟨decimalChars w v, fdec_natCast h1 hv, decimalChars_length w v, parseInt_decimalChars h1 hv⟩
  · intro cfg v body hv hbody
    rw [bodyFixed_single_ok (dsRow_lineNumber _) rowLineNumber_shape (layField_lineNumber_ok hv (.inl rfl))] at hbody
    obtain ⟨rfl, -⟩ := capBody_eq_ok hbody
    have hdigits : (prefixBytes rowLineNumber ++ decimalChars 3 v).drop
        ((prefixBytes rowLineNumber ++ decimalChars 3 v).length - 3) = decimalChars 3 v :=
      List.drop_left' (by simp)
    rw [hdigits, parseInt_decimalChars (by decide) (by omega)]

/-- Settles O33: the answer is the prefix and what the row's one field lays out, or that field's fault. -/
theorem pinnedFixedRowsEncode : Obligations.PinnedFixedRowsEncode := by
  intro s hcap
  have hfour {body : Bytes} (h : body.length = 4) : fits s.cfg.bufCap body.length = true :=
    h ▸ fits_of_le hcap
  refine ⟨?line, ?lineAbove, ?lineBelow, ?stopId, ?stopIdAbove⟩
  case line =>
    intro v x hv hx
    have hanswer := exec_encFixed_single_ok (dsRow_lineNumber _) rowLineNumber_shape
      (layField_lineNumber_ok hv hx) (hfour (by simp))
    rwa [prefixBytes_rowLineNumber, decimalChars_three hv] at hanswer
  case lineAbove =>
    intro v x h999 hv hx
    exact exec_encFixed_single_error (dsRow_lineNumber _) rowLineNumber_shape
      (layField_lineNumber_overflow h999 hv hx)
  case lineBelow =>
    intro v hv
    exact exec_encFixed_single_error (dsRow_lineNumber _) rowLineNumber_shape (layField_lineNumber_negative hv)
  case stopId =>
    intro v hv
    have hanswer := exec_encFixed_single_ok (dsRow_lpNextStopId _) rowLpNextStopId_shape
      (layField_lpNextStopId_ok hv) (hfour (by simp))
    rwa [prefixBytes_rowLpNextStopId, nibbleChars_two hv] at hanswer
  case stopIdAbove =>
    intro v hv
    exact exec_encFixed_single_error (dsRow_lpNextStopId _) rowLpNextStopId_shape
      (layField_lpNextStopId_overflow hv)

end Sys2Proof.Machine
end

section
/-! PROOF. The reply decoder (spec/44_reply_decoder.md R141, R142). `strip` drops the last two bytes by position, so it
undoes appending any pair; `statusOf` is the pinned entry above the configuration's table, with the byte itself as the
default. -/

namespace Sys2Proof.Machine

/-! ### The trailer -/

theorem strip_append_pair (payload : Bytes) (t c : Byte) : strip (payload ++ [t, c]) = .ok payload := by
  have hlen : (payload ++ [t, c]).length = payload.length + 2 := List.length_append
  rw [strip, if_neg (by omega), hlen, Nat.add_sub_cancel, List.take_left]

theorem strip_of_length_lt_two {raw : Bytes} (h : raw.length < 2) :
    strip raw = .error (.parseError .shortReply (.length raw.length)) :=
  if_pos h

/-! ### The status lookup -/

theorem statusOf_0x32 (cfg : Config) : statusOf cfg 0x32 = .symbol .searching := rfl

theorem statusOf_of_lookup_some {cfg : Config} {c : Byte} {sym : StatusSymbol} (hc : c ≠ 0x32)
    (h : cfg.openStatus.lookup c = some sym) : statusOf cfg c = .symbol sym := by
  simp only [statusOf, if_neg hc, h]

/-- A status byte with no entry is not illegal (R74). -/
theorem statusOf_of_lookup_none {cfg : Config} {c : Byte} (hc : c ≠ 0x32) (h : cfg.openStatus.lookup c = none) :
    statusOf cfg c = .raw c := by
  simp only [statusOf, if_neg hc, h]

/-! ### The operations -/

theorem exec_rxStrip (raw : Bytes) (s : State) : exec (.rxStrip raw) s = .next (finish .bytes (strip raw) s) := rfl

theorem exec_decStatus (c : Byte) (s : State) :
    exec (.decStatus c) s = .next (respond (.status (statusOf s.cfg c)) s) := rfl

/-! ### The statements -/

/-- Settles O37, by the two branches of `strip`: a payload with any pair after it, and fewer than two bytes. -/
theorem rxStripDropsTheTrailer : Obligations.RxStripDropsTheTrailer := by
  refine ⟨fun _ => rfl, ?whole, ?short⟩
  case whole =>
    intro payload t c s
    rw [exec_rxStrip, strip_append_pair, finish_ok]
    rfl
  case short =>
    intro raw s h
    rw [exec_rxStrip, strip_of_length_lt_two h, finish_error, raise_eq]
    rfl

/-- Settles O38: the answer is `statusOf`, which has the pinned entry, the table's and the byte itself as its cases. -/
theorem decStatusLooksUpOrPassesThrough : Obligations.DecStatusLooksUpOrPassesThrough := by
  intro c s
  refine ⟨rfl, statusOf s.cfg c, exec_decStatus c s, ?pinned, ?entry, ?through⟩
  case pinned =>
    rintro rfl
    exact statusOf_0x32 s.cfg
  case entry => exact fun _ hc h => statusOf_of_lookup_some hc h
  case through => exact statusOf_of_lookup_none

end Sys2Proof.Machine
end

section
/-! PROOF. The faults of the command port and of the framer phase (spec/60_exceptions.md R175, R176). A reserved opcode
has no row in the map, so its request ends in fault entry before anything is executed; the operations that need a phase
begin with its test, so they end in fault entry where it fails. -/

namespace Sys2Proof.Machine

/-! ### Fault entry -/

/-- Fault entry before any folding, with both lengths already 0, gives a response and nothing else (R178). -/
theorem raise_false_of_lengths_zero {c : Cause} {s : State} (hb : s.blen = 0) (hr : s.rlen = 0) :
    raise false c s = { s with responses := s.responses ++ [.fault c] } := by
  cases s
  cases hb
  cases hr
  rfl

/-! ### Reserved opcodes -/

/-- The opcodes of the map of R73. -/
def mappedOpcodes : List Byte :=
  [0x10, 0x11, 0x12, 0x13, 0x20, 0x21, 0x30, 0x31, 0x32, 0x33, 0x34, 0x40, 0x41, 0x43, 0x48, 0x49, 0x4A, 0x4B,
    0x50, 0x51, 0x52, 0x53, 0x54, 0x58, 0x60, 0x61, 0x62]

theorem signature_eq_none_iff : ∀ op : Byte, signature op = none ↔ op ∉ mappedOpcodes := by decide

/-- An opcode without a signature is reserved whatever its operands (R74). -/
theorem decode_cmd_of_signature_none {op : Byte} (h : signature op = none) (args : List Arg) :
    decode (.cmd op args) = .error (.illegalCommand op) := by
  simp only [decode, decodeCmd, h]

/-- A request that is no instruction is taken off the queue and answered by the port. -/
theorem step_of_decode_error {s : State} {r : Request} {rest : List Request} {e : Reject}
    (hq : s.requests = r :: rest) (hd : decode r = .error e) :
    step s = answerReject r e { s with requests := rest } := by
  simp only [step, hq, hd]

theorem answerReject_illegalCommand {r : Request} {op : Byte} {s : State} :
    answerReject r (.illegalCommand op) s = .next (raise false (.illegalCommand op) s) := rfl

/-! ### The operations that need a phase -/

/-- FRM.FRAME, FRM.CKSUM, FRM.START and the transfers do nothing before the test for `IDLE` (R176). -/
theorem exec_eq_whenIdle {ds : DsId} {params : List Operand} {body : Bytes} {i : Instr}
    (hi : i ∈ [Instr.frmFrame body, .frmCksum body, .frmStart, .xferSend ds params, .xferSendraw body,
      .xferQuery ds params]) :
    ∃ k, ∀ s, exec i s = .next (whenIdle s k) := by
  simp only [List.mem_cons, List.not_mem_nil, or_false] at hi
  obtain rfl | rfl | rfl | rfl | rfl | rfl := hi
  all_goals exact ⟨_, fun _ => rfl⟩

/-- FRM.BYTE and FRM.END do nothing before the test for `BODY` (R176). -/
theorem exec_eq_whenBody {b : Byte} {i : Instr} (hi : i ∈ [Instr.frmByte b, .frmEnd]) :
    ∃ k, ∀ s, exec i s = .next (whenBody s k) := by
  simp only [List.mem_cons, List.not_mem_nil, or_false] at hi
  obtain rfl | rfl := hi
  · exact ⟨_, exec_frmByte b⟩
  · exact ⟨_, exec_frmEnd⟩

/-! ### The statements -/

/-- Settles O3: the opcode has no signature, so the port answers by fault entry, which finds both lengths at 0. -/
theorem reservedOpcodeAnswersIllegalCommand : Obligations.ReservedOpcodeAnswersIllegalCommand := by
  intro s op args rest hq hb hr hop
  have hsig : signature op = none := (signature_eq_none_iff op).mpr hop
  rw [step_of_decode_error hq (decode_cmd_of_signature_none hsig args), answerReject_illegalCommand]
  exact congrArg Host.Outcome.next (raise_false_of_lengths_zero hb hr)

/-- Settles O48: each of the operations begins with its phase test, which fails into fault entry without folding. -/
theorem phaseFaultKeepsTheOpenFrame : Obligations.PhaseFaultKeepsTheOpenFrame := by
  refine ⟨?needIdle, ?needBody⟩
  case needIdle =>
    intro s ds params body i hp hi
    obtain ⟨k, hk⟩ := exec_eq_whenIdle hi
    rw [hk, whenIdle_body hp, raise_eq]
    rfl
  case needBody =>
    intro s b i hp hi
    obtain ⟨k, hk⟩ := exec_eq_whenBody hi
    rw [hk, whenBody_idle hp, raise_eq]
    rfl

end Sys2Proof.Machine
end

section
/-! PROOF. The port's encoder and the wire layouts (spec/30_encoding.md R60 to R75), and the step (spec/00_scope.md R8).
Both directions of the layouts rest on one fact about a character each way: `charNibble` reads back what `nibbleChar`
writes, and a byte it reads as a nibble is that nibble's character. -/

namespace Sys2Proof.Machine

/-! ### Characters of the wire -/

theorem eq_nibbleChar_of_charNibble {c : Byte} {n : Nibble} (h : charNibble c = some n) : c = nibbleChar n := by
  rw [charNibble] at h
  split at h
  · next h3 =>
    obtain rfl : c.extractLsb' 0 4 = n := by simpa using h
    exact (nibbleChar_lowNibble c h3).symm
  · cases h

theorem charDigit_nibbleChar {d : Nibble} (h : isDigit d = true) : charDigit (nibbleChar d) = some d := by
  simp [charDigit, charNibble_nibbleChar, h]

/-- A byte read as a digit is that digit's character, and the digit is 0 to 9 (R63). -/
theorem eq_nibbleChar_of_charDigit {c : Byte} {d : Nibble} (h : charDigit c = some d) :
    c = nibbleChar d ∧ isDigit d = true := by
  obtain ⟨hc, hd⟩ := Option.filter_eq_some_iff.mp h
  exact ⟨eq_nibbleChar_of_charNibble hc, hd⟩

/-! ### Decoding -/

theorem decode_wire_eq_ok_iff {slot : WireSlot} {bs : Bytes} {i : Instr} :
    decode (.wire slot bs) = .ok i ↔ buildWire slot bs = some i := by
  rw [decode]
  cases buildWire slot bs <;> simp

theorem decode_encode {i : Instr} (h : i.wellFormed = true) : decode (encode i) = .ok i := by
  cases i with
  | decReply ds r => cases r <;> rfl
  | fieldDecimalDigit d =>
    have hd : charDigit (nibbleChar d) = some d := charDigit_nibbleChar h
    exact decode_wire_eq_ok_iff.mpr (by simp [buildWire, hd])
  | bodyLineNumber a b c =>
    simp only [Instr.wellFormed, Bool.and_eq_true] at h
    obtain ⟨⟨ha, hb⟩, hc⟩ := h
    exact decode_wire_eq_ok_iff.mpr
      (by simp [buildWire, charDigit_nibbleChar ha, charDigit_nibbleChar hb, charDigit_nibbleChar hc])
  | fieldNibbleChar | bodyLpNextStopId | bodyDestTextHeader | bodyBlockCount | bodyLsaLength
  | bodyDisplayStatusReference =>
    exact decode_wire_eq_ok_iff.mpr (by simp [buildWire, charNibble_nibbleChar])
  | _ => rfl

/-- Bytes that have a layout are the bytes its row encodes to (R60, R63, R65, R67 to R69, R71). -/
theorem encode_of_buildWire {slot : WireSlot} {bs : Bytes} {i : Instr} (h : buildWire slot bs = some i) :
    encode i = .wire slot bs ∧ i.wellFormed = true := by
  unfold buildWire at h
  split at h
  case h_1 => -- the trailer
    split at h <;> cases h
    next ht => exact ⟨by rw [ht]; rfl, rfl⟩
  case h_2 => -- a decimal digit
    obtain ⟨d, hd, rfl⟩ := Option.map_eq_some_iff.mp h
    obtain ⟨rfl, hdigit⟩ := eq_nibbleChar_of_charDigit hd
    exact ⟨rfl, hdigit⟩
  case h_4 => -- the body of `LINE_NUMBER`
    split at h
    · next hp =>
      split at h <;> cases h
      next ha hb hc =>
        obtain ⟨rfl, hda⟩ := eq_nibbleChar_of_charDigit ha
        obtain ⟨rfl, hdb⟩ := eq_nibbleChar_of_charDigit hb
        obtain ⟨rfl, hdc⟩ := eq_nibbleChar_of_charDigit hc
        exact ⟨by rw [hp]; rfl, by simp [Instr.wellFormed, hda, hdb, hdc]⟩
    · cases h
  case h_5 => -- the body of `LP_NEXT_STOP_ID`
    split at h
    · next hp =>
      obtain ⟨rfl, rfl⟩ := hp
      split at h <;> cases h
      next hh hl =>
        obtain rfl := eq_nibbleChar_of_charNibble hh
        obtain rfl := eq_nibbleChar_of_charNibble hl
        exact ⟨rfl, rfl⟩
    · cases h
  case h_6 => -- the header of `DEST_TEXT`
    split at h
    · next hp =>
      obtain ⟨rfl, rfl⟩ := hp
      obtain ⟨n, hn, rfl⟩ := Option.map_eq_some_iff.mp h
      exact ⟨by rw [eq_nibbleChar_of_charNibble hn]; rfl, rfl⟩
    · cases h
  case h_9 => -- the control bytes
    split at h <;> cases h
    next hc =>
      obtain ⟨rfl, rfl, rfl⟩ := hc
      exact ⟨rfl, rfl⟩
  case h_10 => -- the body of `DISPLAY_STATUS`
    split at h
    · next hp =>
      obtain ⟨n, hn, rfl⟩ := Option.map_eq_some_iff.mp h
      exact ⟨by rw [hp, eq_nibbleChar_of_charNibble hn]; rfl, rfl⟩
    · cases h
  case h_11 => cases h
  all_goals -- the three places of one nibble character
    obtain ⟨n, hn, rfl⟩ := Option.map_eq_some_iff.mp h
    exact ⟨by rw [eq_nibbleChar_of_charNibble hn]; rfl, rfl⟩

/-! ### The step -/

theorem step_of_no_request {s : State} (h : s.requests = []) : step s = .next s := by
  rw [step, h]

theorem step_of_decode_ok {s : State} {r : Request} {rest : List Request} {i : Instr}
    (hq : s.requests = r :: rest) (hd : decode r = .ok i) : step s = exec i { s with requests := rest } := by
  simp only [step, hq, hd]

/-! ### The statements -/

/-- Settles O1: a character at a time for the layouts; the commands and their opcodes by the encoder's equations. -/
theorem decodeOfEncodeIsTheInstruction : Obligations.DecodeOfEncodeIsTheInstruction := by
  refine ⟨fun _ => decode_encode, ?_⟩
  repeat' apply And.intro
  all_goals intros; rfl

/-- Settles O2, by the layouts of `buildWire`. -/
theorem decodedWireBytesEncodeBack : Obligations.DecodedWireBytesEncodeBack :=
  fun _ _ _ h => encode_of_buildWire (decode_wire_eq_ok_iff.mp h)

/-- Settles O5, by running the decoder on each word. -/
theorem wordsOfTheTableDecode : Obligations.WordsOfTheTableDecode := by
  refine ⟨?_, ?_, ?_, ?_, ?_, ?_, ?_, ?_⟩ <;> decide

/-- Settles O6. -/
theorem stepExecutesTheDecodedRequest : Obligations.StepExecutesTheDecodedRequest :=
  fun _ _ _ _ => step_of_decode_ok

/-- Settles O7. -/
theorem stepWaitsWithoutRequest : Obligations.StepWaitsWithoutRequest :=
  fun _ => step_of_no_request

end Sys2Proof.Machine
end

section
/-! PROOF. The numbers that characters write: the multi-nibble forms (spec/40_vdvhex.md R83, R84), the beacon identifier
and the two version decoders (spec/44_reply_decoder.md R145 to R147). A text over an alphabet is read by Horner's rule,
and reading stops at the first byte outside the alphabet. -/

namespace Sys2Proof.Machine

/-! ### Multi-nibble forms -/

theorem encw_width {k : Nat} (h : k < 1 ∨ 8 < k) (v : Nat) : encw k v = .error (.paramFault (some 0) (some k)) := by
  rw [encw, if_pos h]

/-- The nibble characters of a number as its base-16 digits, by division (R83). -/
theorem nibbleChars_eq_map_div (k v : Nat) :
    nibbleChars k v = (List.range k).map fun i => 0x30 ||| BitVec.ofNat 8 (v / 16 ^ (k - 1 - i) % 16) := by
  refine List.map_congr_left fun i _ => ?_
  rw [nibbleChar_ofNat, Nat.shiftRight_eq_div_pow, Nat.mul_comm, Nat.pow_mul]

theorem decw_length {cs : Bytes} (h : cs.length < 1 ∨ 8 < cs.length) :
    decw cs = .error (.paramFault (some 0) (some cs.length)) := by
  rw [decw, if_pos h]

/-- The number that nibble characters write, by Horner's rule (R84). -/
def hornerHex (a : Nat) (cs : Bytes) : Nat := cs.foldl (fun v c => v * 16 + (c.extractLsb' 0 4).toNat) a

theorem lowNibble_nibbleChar : ∀ n : Nibble, (nibbleChar n).extractLsb' 0 4 = n := by decide

theorem hornerHex_nibbleChars (k a v : Nat) : hornerHex a (nibbleChars k v) = a * 16 ^ k + v % 16 ^ k := by
  induction k generalizing a with
  | zero => simp [hornerHex, Nat.mod_one]
  | succ k ih =>
    have hhead : hornerHex a (nibbleChars (k + 1) v) = hornerHex (a * 16 + v / 16 ^ k % 16) (nibbleChars k v) := by
      rw [nibbleChars_succ, hornerHex, List.foldl_cons, lowNibble_nibbleChar, BitVec.toNat_ofNat]
      rfl
    rw [hhead, ih, Nat.mod_pow_succ]
    ring

/-- `decw` of a text over the alphabet is the number it writes, which its length bounds (R84). -/
theorem decw_eq_hornerHex {cs : Bytes} (h1 : 1 ≤ cs.length) (h8 : cs.length ≤ 8)
    (h : ∀ c ∈ cs, c.extractLsb' 4 4 = 0x3#4) :
    decw cs = .ok (hornerHex 0 cs) ∧ hornerHex 0 cs < 16 ^ cs.length := by
  obtain ⟨v, hv, hchars⟩ := exists_eq_nibbleChars fun c hc => (highNibble_eq_three_iff c).mp (h c hc)
  have hvalue := hornerHex_nibbleChars cs.length 0 v
  have hread := decw_nibbleChars h1 h8 hv
  rw [hchars, Nat.mod_eq_of_lt hv, Nat.zero_mul, Nat.zero_add] at hvalue
  rw [hchars] at hread
  rw [hvalue]
  exact ⟨hread, hv⟩

/-- The fold of `decw` stops at the first byte outside the alphabet (R84). -/
theorem decwFrom_invalid {before after : Bytes} {c : Byte} (hb : ∀ b ∈ before, b.extractLsb' 4 4 = 0x3#4)
    (hc : c.extractLsb' 4 4 ≠ 0x3#4) (v : BitVec 32) :
    decwFrom (before ++ c :: after) v = .error (.invalidSymbol c) := by
  induction before generalizing v with
  | nil => simp [decwFrom, dec_error hc]
  | cons b before ih =>
    obtain ⟨hb, hbefore⟩ := List.forall_mem_cons.mp hb
    simp only [List.cons_append, decwFrom, dec_ok hb, ih hbefore]

theorem decw_invalid {before after : Bytes} {c : Byte} (h8 : (before ++ c :: after).length ≤ 8)
    (hb : ∀ b ∈ before, b.extractLsb' 4 4 = 0x3#4) (hc : c.extractLsb' 4 4 ≠ 0x3#4) :
    decw (before ++ c :: after) = .error (.invalidSymbol c) := by
  rw [decw_eq_decwFrom (by simp; omega) h8, decwFrom_invalid hb hc]

theorem beacon_of_length {cs : Bytes} (h : cs.length = 8) : beacon cs = decw cs :=
  if_neg (not_not_intro h)

/-! ### Decimal numbers -/

/-- The number that digit characters write, by Horner's rule (R147). -/
def hornerDec (a : Nat) (b : Bytes) : Nat := b.foldl (fun n c => n * 10 + (c.toNat - 0x30)) a

theorem parseDigits_eq_hornerDec {b : Bytes} (h : ∀ c ∈ b, 0x30 ≤ c ∧ c ≤ 0x39) (a : Nat) :
    parseDigits b a = .ok (hornerDec a b) := by
  induction b generalizing a with
  | nil => rfl
  | cons c cs ih =>
    obtain ⟨⟨hlo, hhi⟩, hcs⟩ := List.forall_mem_cons.mp h
    have hrange : ¬ (c < 0x30 ∨ 0x39 < c) := not_or_intro (BitVec.not_lt.mpr hlo) (BitVec.not_lt.mpr hhi)
    rw [parseDigits, if_neg hrange, BitVec.toNat_sub_of_le hlo, ih hcs]
    rfl

/-- The loop of `parse_int` stops at the first byte that is no digit (R147). -/
theorem parseDigits_notDigit {before after : Bytes} {c : Byte} (hb : ∀ x ∈ before, 0x30 ≤ x ∧ x ≤ 0x39)
    (hc : c < 0x30 ∨ 0x39 < c) (a : Nat) :
    parseDigits (before ++ c :: after) a = .error (.parseError .notANumber (.byte c)) := by
  induction before generalizing a with
  | nil => rw [List.nil_append, parseDigits, if_pos hc]
  | cons b before ih =>
    obtain ⟨⟨hlo, hhi⟩, hbefore⟩ := List.forall_mem_cons.mp hb
    have hrange : ¬ (b < 0x30 ∨ 0x39 < b) := not_or_intro (BitVec.not_lt.mpr hlo) (BitVec.not_lt.mpr hhi)
    rw [List.cons_append, parseDigits, if_neg hrange, ih hbefore]

/-! ### The operations -/

theorem exec_vdvEncw (k v : Nat) (s : State) : exec (.vdvEncw k v) s = .next (finish .bytes (encw k v) s) := rfl

theorem exec_vdvDecw (cs : Bytes) (s : State) : exec (.vdvDecw cs) s = .next (finish .nat (decw cs) s) := rfl

theorem exec_decBeacon (cs : Bytes) (s : State) : exec (.decBeacon cs) s = .next (finish .nat (beacon cs) s) := rfl

theorem exec_decVerint (b : Bytes) (s : State) :
    exec (.decVerint b) s = .next (finish (fun n => .value (.num n)) (parseInt b) s) := rfl

/-! ### The statements -/

/-- Settles O10, by the three branches of `encw`. -/
theorem vdvEncwAnswersTheNibblesOfTheValue : Obligations.VdvEncwAnswersTheNibblesOfTheValue := by
  intro k v s
  simp only [exec_vdvEncw]
  refine ⟨fun hk => ?width, fun h1 h8 hv => ?range, fun h1 h8 hv => ?value⟩
  case width => rw [encw_width hk]; rfl
  case range => rw [encw_overflow h1 h8 hv]; rfl
  case value => rw [encw_ok h1 h8 hv, nibbleChars_eq_map_div]; rfl

/-- Settles O11: a text over the alphabet is read by Horner's rule, any other up to its first foreign byte. -/
theorem vdvDecwAnswersTheNumberInBase16 : Obligations.VdvDecwAnswersTheNumberInBase16 := by
  intro cs s
  simp only [exec_vdvDecw]
  refine ⟨fun hlen => ?length, fun h1 h8 h => ?value, fun before after c hcs h8 hb hc => ?symbol⟩
  case length => rw [decw_length hlen]; rfl
  case value => rw [(decw_eq_hornerHex h1 h8 h).1]; rfl
  case symbol =>
    subst hcs
    rw [decw_invalid h8 hb hc]
    rfl

/-- Settles O39: `decw` at the one length it accepts. -/
theorem decBeaconAnswersTheIdentifier : Obligations.DecBeaconAnswersTheIdentifier := by
  intro cs s
  simp only [exec_decBeacon]
  refine ⟨fun hlen => ?length, fun hlen h => ?value, fun before after c hcs hlen hb hc => ?symbol⟩
  case length =>
    rw [beacon, if_pos hlen]
    rfl
  case value =>
    obtain ⟨hread, hbound⟩ := decw_eq_hornerHex (by omega) (by omega) h
    rw [hlen] at hbound
    rw [beacon_of_length hlen, hread]
    exact ⟨_, hbound, rfl, rfl⟩
  case symbol =>
    rw [beacon_of_length hlen]
    subst hcs
    rw [decw_invalid (by omega) hb hc]
    rfl

/-- Settles O40: `DEC.VERSTR` is its slice, `DEC.VERINT` the number its digits write. -/
theorem versionDecodersStayDifferent : Obligations.VersionDecodersStayDifferent := by
  intro s
  simp only [exec_decVerint]
  refine ⟨fun _ => rfl, rfl, fun b hne h => ?number, fun before after c hb hc => ?symbol⟩
  case number => rw [parseInt_eq_parseDigits hne, parseDigits_eq_hornerDec h]; rfl
  case symbol => rw [parseInt_eq_parseDigits (by simp), parseDigits_notDigit hb hc]; rfl

end Sys2Proof.Machine
end

section
/-! PROOF. Seven-bit bytes: the laws of the mapper (spec/41_special_char.md R93) and of the frame (spec/42_framer.md
R108). A character of the mapper is a row of the table, an ASCII character unchanged, or the placeholder. -/

namespace Sys2Proof.Machine

/-! ### Byte sequences without bit 7 -/

/-- Every byte is a char7 (R11). -/
def SevenBit (bs : Bytes) : Prop := ∀ b ∈ bs, b ≤ 0x7F

@[simp] theorem sevenBit_nil : SevenBit [] := by simp [SevenBit]

@[simp] theorem sevenBit_cons {b : Byte} {bs : Bytes} : SevenBit (b :: bs) ↔ b ≤ 0x7F ∧ SevenBit bs :=
  List.forall_mem_cons

@[simp] theorem sevenBit_append {as bs : Bytes} : SevenBit (as ++ bs) ↔ SevenBit as ∧ SevenBit bs :=
  List.forall_mem_append

theorem sevenBit_replicate {b : Byte} (hb : b ≤ 0x7F) (n : Nat) : SevenBit (List.replicate n b) :=
  fun _ h => List.eq_of_mem_replicate h ▸ hb

theorem charByte_le_0x7F : ∀ c : Char7, charByte c ≤ 0x7F := by decide

theorem xor_le_0x7F {a b : Byte} (ha : a ≤ 0x7F) (hb : b ≤ 0x7F) : a ^^^ b ≤ 0x7F :=
  Nat.le_of_lt_succ (BitVec.toNat_xor a b ▸
    Nat.xor_lt_two_pow (n := 7) (Nat.lt_succ_of_le ha) (Nat.lt_succ_of_le hb))

/-- The fold of the checksum stays a char7 (R108). -/
theorem foldl_xor_le_0x7F {bs : Bytes} (h : SevenBit bs) {c : Byte} (hc : c ≤ 0x7F) :
    bs.foldl (fun c b => c ^^^ b) c ≤ 0x7F := by
  induction bs generalizing c with
  | nil => exact hc
  | cons b bs ih =>
    obtain ⟨hb, hbs⟩ := sevenBit_cons.mp h
    exact ih hbs (xor_le_0x7F hc hb)

theorem sevenBit_frameOf {body : Bytes} (h : SevenBit body) : SevenBit (frameOf body) := by
  have hsum : cksum body ≤ 0x7F := xor_le_0x7F (foldl_xor_le_0x7F h (by decide)) (by decide)
  exact sevenBit_append.mpr ⟨h, sevenBit_cons.mpr ⟨by decide, sevenBit_cons.mpr ⟨hsum, sevenBit_nil⟩⟩⟩

/-! ### The mapper -/

/-- The code points of the substitution table (R90). -/
def substKeys : List CodePoint := [0xE4, 0xF6, 0xFC, 0xDF, 0xC4, 0xD6, 0xDC]

/-- A character of the table is mapped to a char7 that is no placeholder and stands for itself (R90). -/
theorem scm_of_mem_substKeys : ∀ cp ∈ substKeys,
    scm cp ≤ 0x7F ∧ scm cp ≠ 0x3F ∧ scm ((scm cp).setWidth 21) = scm cp := by
  have hall : substKeys.all (fun cp => decide (scm cp ≤ 0x7F ∧ scm cp ≠ 0x3F ∧ scm ((scm cp).setWidth 21) = scm cp)) :=
    by decide
  exact fun cp h => of_decide_eq_true (List.all_eq_true.mp hall cp h)

theorem lookup_subst_eq_none {cp : CodePoint} (h : cp ∉ substKeys) : subst.lookup cp = none := by
  have hkeys : subst.map Prod.fst = substKeys := rfl
  rw [List.lookup_eq_none_iff]
  intro row hrow
  have hmem : row.1 ∈ substKeys := hkeys ▸ List.mem_map_of_mem hrow
  exact bne_iff_ne.mpr fun heq => h (heq ▸ hmem)

theorem not_mem_substKeys_of_ascii {cp : CodePoint} (h : cp ≤ 0x7F) : cp ∉ substKeys := by
  intro hmem
  have hall : substKeys.all (fun k => decide (0x7F < k)) := by decide
  exact absurd h (BitVec.not_le.mpr (of_decide_eq_true (List.all_eq_true.mp hall cp hmem)))

/-- ASCII is unchanged (R91). -/
theorem scm_of_ascii {cp : CodePoint} (h : cp ≤ 0x7F) : scm cp = cp.setWidth 8 := by
  rw [scm_of_lookup_none (lookup_subst_eq_none (not_mem_substKeys_of_ascii h)), if_pos h]

/-- An unmapped non-ASCII character is the placeholder (R91). -/
theorem scm_of_unmapped {cp : CodePoint} (h : 0x7F < cp) (hk : cp ∉ substKeys) : scm cp = 0x3F := by
  rw [scm_of_lookup_none (lookup_subst_eq_none hk), if_neg (BitVec.not_le.mpr h)]

theorem toNat_setWidth_of_ascii {cp : CodePoint} (h : cp ≤ 0x7F) : (cp.setWidth 8 : Byte).toNat = cp.toNat := by
  have hlt : cp.toNat < 128 := Nat.lt_succ_of_le h
  rw [BitVec.toNat_setWidth, Nat.mod_eq_of_lt (by omega)]

theorem setWidth_le_0x7F {cp : CodePoint} (h : cp ≤ 0x7F) : (cp.setWidth 8 : Byte) ≤ 0x7F :=
  (toNat_setWidth_of_ascii h).le.trans h

/-- The three kinds of characters: a row of the table, ASCII, and the rest (R91). -/
theorem mem_substKeys_or_ascii_or_unmapped (cp : CodePoint) :
    cp ∈ substKeys ∨ cp ≤ 0x7F ∨ 0x7F < cp ∧ cp ∉ substKeys := by
  by_cases hk : cp ∈ substKeys
  · exact .inl hk
  · by_cases ha : cp ≤ 0x7F
    · exact .inr (.inl ha)
    · exact .inr (.inr ⟨BitVec.not_le.mp ha, hk⟩)

theorem scm_le_0x7F (cp : CodePoint) : scm cp ≤ 0x7F := by
  obtain hk | ha | ⟨hhi, hk⟩ := mem_substKeys_or_ascii_or_unmapped cp
  · exact (scm_of_mem_substKeys cp hk).1
  · exact scm_of_ascii ha ▸ setWidth_le_0x7F ha
  · exact scm_of_unmapped hhi hk ▸ by decide

/-- A char7 stands for itself (R93). -/
theorem scm_setWidth_of_le_0x7F : ∀ b : Byte, b ≤ 0x7F → scm (b.setWidth 21) = b := by
  intro b hb
  have hlt : b.toNat < 128 := Nat.lt_succ_of_le hb
  have hnat : (b.setWidth 21 : CodePoint).toNat = b.toNat := by rw [BitVec.toNat_setWidth, Nat.mod_eq_of_lt (by omega)]
  have hascii : (b.setWidth 21 : CodePoint) ≤ 0x7F := hnat.le.trans hb
  rw [scm_of_ascii hascii]
  exact BitVec.eq_of_toNat_eq ((toNat_setWidth_of_ascii hascii).trans hnat)

/-- The placeholder stands for an unmapped non-ASCII character, and else for itself only (R93). -/
theorem scm_eq_placeholder_iff {cp : CodePoint} (hne : cp ≠ 0x3F) : scm cp = 0x3F ↔ 0x7F < cp ∧ cp ∉ substKeys := by
  refine ⟨fun h => ?_, fun ⟨hhi, hk⟩ => scm_of_unmapped hhi hk⟩
  obtain hk | ha | hrest := mem_substKeys_or_ascii_or_unmapped cp
  · exact absurd h (scm_of_mem_substKeys cp hk).2.1
  · refine absurd (BitVec.eq_of_toNat_eq ?_) hne
    rw [← toNat_setWidth_of_ascii ha, ← scm_of_ascii ha, h]
    rfl
  · exact hrest

theorem sevenBit_sanitize (t : Text) : SevenBit (sanitize t) :=
  List.forall_mem_map.mpr fun cp _ => scm_le_0x7F cp

/-! ### The statements -/

/-- Settles O15: each law is one about a single character. -/
theorem sanitizeLaws : Obligations.SanitizeLaws := by
  intro t
  refine ⟨sevenBit_sanitize t, fun h => ?ascii, ?idempotent, fun i cp hcp hne => ?placeholder⟩
  case ascii => exact List.map_congr_left fun cp hcp => scm_of_ascii (h cp hcp)
  case idempotent =>
    have hid : ∀ b ∈ sanitize t, scm (b.setWidth 21) = b :=
      fun b hb => scm_setWidth_of_le_0x7F b (sevenBit_sanitize t b hb)
    rw [sanitize, List.map_map]
    exact (List.map_congr_left hid).trans (List.map_id' _)
  case placeholder =>
    rw [getElem?_sanitize, hcp, Option.map_some, Option.some_inj]
    exact scm_eq_placeholder_iff hne

/-- Settles O23: the exclusive-or of char7 bytes is a char7. -/
theorem sevenBitBodiesGiveSevenBitFrames : Obligations.SevenBitBodiesGiveSevenBitFrames := by
  refine ⟨fun _ => sevenBit_frameOf, ?_⟩
  intro b s t h hck hb
  rw [exec_frmByte, Host.Outcome.next.injEq] at h
  subst h
  cases hp : s.ph with
  | idle => rw [whenBody_idle hp]; exact hck
  | body => rw [whenBody_body hp]; exact xor_le_0x7F hck hb

end Sys2Proof.Machine
end

section
/-! PROOF. The field formatters and `lay_field` (spec/43_body_encoder.md R121 to R125). Each formatter has one equation
per branch; a laid-out field is its formatter's answer but for the operand index of a width's fault. -/

namespace Sys2Proof.Machine

/-! ### `FLD.DEC` -/

theorem fdec_width {w : Nat} (h : w < 1) (v : Int) : fdec w v = .error (.paramFault (some 0) (some w)) := by
  rw [fdec, if_pos h]

theorem fdec_tooLarge {w : Nat} {v : Int} (h1 : 1 ≤ w) (hv : (10 : Int) ^ w ≤ v) :
    fdec w v = .error (.encodingError .decimalOverflow v) := by
  have hpos : (0 : Int) < 10 ^ w := by positivity
  rw [fdec, if_neg (by omega), if_neg (by omega), if_pos hv]

/-- The four branches of `fdec`. -/
theorem fdec_cases (w : Nat) (v : Int) :
    fdec w v = .error (.paramFault (some 0) (some w)) ∨ (∃ sub, fdec w v = .error (.encodingError sub v)) ∨
      1 ≤ w ∧ 0 ≤ v ∧ v < (10 : Int) ^ w ∧ fdec w v = .ok (decimalChars w v.toNat) := by
  by_cases hw : w < 1
  · exact .inl (fdec_width hw v)
  by_cases hneg : v < 0
  · exact .inr (.inl ⟨_, fdec_negative (by omega) hneg⟩)
  by_cases hbig : (10 : Int) ^ w ≤ v
  · exact .inr (.inl ⟨_, fdec_tooLarge (by omega) hbig⟩)
  exact .inr (.inr ⟨by omega, by omega, by omega, fdec_ok (by omega) (by omega) (by omega)⟩)

theorem digitChar_range : ∀ d < 10,
    (0x30 : Byte) ≤ 0x30 + BitVec.ofNat 8 d ∧ (0x30 : Byte) + BitVec.ofNat 8 d ≤ 0x39 := by decide

theorem decimalChars_range (w v : Nat) : ∀ b ∈ decimalChars w v, 0x30 ≤ b ∧ b ≤ 0x39 :=
  List.forall_mem_map.mpr fun _ _ => digitChar_range _ (Nat.mod_lt _ (by decide))

/-- The digits of a number write it (R63): `parse_int` reads the number back, and it reads by Horner's rule. -/
theorem hornerDec_decimalChars {w v : Nat} (hv : v < 10 ^ w) : hornerDec 0 (decimalChars w v) = v := by
  have hread := parseDigits_decimalChars w 0 v
  rw [parseDigits_eq_hornerDec (decimalChars_range w v), Nat.mod_eq_of_lt hv, Nat.zero_mul, Nat.zero_add] at hread
  exact Except.ok.inj hread

/-! ### `FLD.RAW` and `FLD.TXT` -/

theorem fraw_width {w : Nat} (h : w < 1) (pad : Char7) (align : Align) (b : Bytes) :
    fraw w pad align b = .error (.paramFault (some 0) (some w)) := by
  rw [fraw, if_pos h]

theorem fraw_tooLong {w : Nat} {b : Bytes} (h1 : 1 ≤ w) (h : w < b.length) (pad : Char7) (align : Align) :
    fraw w pad align b = .error (.encodingError .textTooLong b.length) := by
  rw [fraw, if_neg (by omega), if_pos h]

theorem fraw_ok {w : Nat} {b : Bytes} (h1 : 1 ≤ w) (h : b.length ≤ w) (pad : Char7) (align : Align) :
    fraw w pad align b = .ok (padTo w pad align b) := by
  rw [fraw, if_neg (by omega), if_neg (by omega)]

/-- The three branches of `fraw`. -/
theorem fraw_cases (w : Nat) (pad : Char7) (align : Align) (b : Bytes) :
    fraw w pad align b = .error (.paramFault (some 0) (some w)) ∨
      (∃ sub v, fraw w pad align b = .error (.encodingError sub v)) ∨
      b.length ≤ w ∧ fraw w pad align b = .ok (padTo w pad align b) := by
  by_cases hw : w < 1
  · exact .inl (fraw_width hw pad align b)
  by_cases hlong : w < b.length
  · exact .inr (.inl ⟨_, _, fraw_tooLong (by omega) hlong pad align⟩)
  exact .inr (.inr ⟨by omega, fraw_ok (by omega) (by omega) pad align⟩)

/-- The three branches of `encw` (R83). -/
theorem encw_cases (k v : Nat) :
    encw k v = .error (.paramFault (some 0) (some k)) ∨ (∃ sub x, encw k v = .error (.encodingError sub x)) ∨
      v < 16 ^ k ∧ encw k v = .ok (nibbleChars k v) := by
  by_cases hk : k < 1 ∨ 8 < k
  · exact .inl (encw_width hk v)
  by_cases hbig : 16 ^ k ≤ v
  · exact .inr (.inl ⟨_, _, encw_overflow (by omega) (by omega) hbig⟩)
  exact .inr (.inr ⟨by omega, encw_ok (by omega) (by omega) (by omega)⟩)

/-! ### The operations -/

theorem exec_fldDec (w : Nat) (v : IntVal) (s : State) :
    exec (.fldDec w v) s = .next (finish .bytes (fdec w v.toInt) s) := rfl

theorem exec_fldTxt (w : Nat) (pad : Char7) (align : Align) (t : Text) (s : State) :
    exec (.fldTxt w pad align t) s = .next (finish .bytes (fraw w pad align (sanitize t)) s) := rfl

theorem exec_fldRaw (w : Nat) (pad : Char7) (align : Align) (b : Bytes) (s : State) :
    exec (.fldRaw w pad align b) s = .next (finish .bytes (fraw w pad align b) s) := rfl

/-! ### `lay_field` -/

/-- What a field formatter answers, as each of its callers may rely on it: a fault of the width names operand 0 and the
width, and bytes are as many as the width (R121 to R124, log entry 8). -/
def FormatterAnswer (w : Nat) (r : Except Cause Bytes) : Prop :=
  r = .error (.paramFault (some 0) (some w)) ∨ (∃ sub v, r = .error (.encodingError sub v)) ∨
    ∃ bs, r = .ok bs ∧ bs.length = w

theorem formatterAnswer_fdec (w : Nat) (v : Int) : FormatterAnswer w (fdec w v) := by
  obtain h | ⟨sub, h⟩ | ⟨-, -, -, h⟩ := fdec_cases w v
  · exact .inl h
  · exact .inr (.inl ⟨sub, v, h⟩)
  · exact .inr (.inr ⟨_, h, decimalChars_length _ _⟩)

theorem formatterAnswer_fraw (w : Nat) (pad : Char7) (align : Align) (b : Bytes) :
    FormatterAnswer w (fraw w pad align b) := by
  obtain h | h | ⟨hlen, h⟩ := fraw_cases w pad align b
  · exact .inl h
  · exact .inr (.inl h)
  · exact .inr (.inr ⟨_, h, padTo_length hlen⟩)

theorem formatterAnswer_encw (w v : Nat) : FormatterAnswer w (encw w v) := by
  obtain h | h | ⟨-, h⟩ := encw_cases w v
  · exact .inl h
  · exact .inr (.inl h)
  · exact .inr (.inr ⟨_, h, nibbleChars_length _ _⟩)

theorem FormatterAnswer.length_eq {w : Nat} {r : Except Cause Bytes} {bs : Bytes} (h : FormatterAnswer w r)
    (hr : unindexed r = .ok bs) : bs.length = w := by
  have hok := unindexed_ok hr
  obtain h | ⟨sub, v, h⟩ | ⟨cs, h, hlen⟩ := h
  · simp [h] at hok
  · simp [h] at hok
  · obtain rfl : cs = bs := by simpa [h] using hok
    exact hlen

/-- A field laid out by a formatter is what the operation that is this formatter answers (R125). -/
theorem FormatterAnswer.answersAs {w : Nat} {r : Except Cause Bytes} {i : Instr} (h : FormatterAnswer w r)
    (hi : ∀ s, exec i s = .next (finish .bytes r s)) : AnswersAs (unindexed r) i := by
  intro s
  refine ⟨_, hi s, ?_⟩
  obtain rfl | ⟨sub, v, rfl⟩ | ⟨bs, rfl, -⟩ := h
  · exact ⟨_, rfl, .inr ⟨w, rfl, rfl⟩⟩
  · exact ⟨_, rfl, .inl rfl⟩
  · rfl

/-- A field with an operand of its type is its formatter's answer, any other pairing `ParamFault` (R125). -/
theorem layField_cases (f : FieldSpec) (x : Operand) :
    layField f x = .error (.paramFault none none) ∨ ∃ r, layField f x = unindexed r ∧ FormatterAnswer f.width r := by
  unfold layField
  split
  · exact .inr ⟨_, rfl, formatterAnswer_fdec _ _⟩
  · split
    · exact .inr ⟨_, rfl, formatterAnswer_fdec _ _⟩
    · exact .inl rfl
  · exact .inr ⟨_, rfl, formatterAnswer_fraw _ _ _ _⟩
  · exact .inr ⟨_, rfl, formatterAnswer_encw _ _⟩
  · exact .inr ⟨_, rfl, formatterAnswer_fraw _ _ _ _⟩
  · exact .inl rfl

theorem layField_length {f : FieldSpec} {x : Operand} {bs : Bytes} (h : layField f x = .ok bs) :
    bs.length = f.width := by
  obtain hf | ⟨r, hr, hw⟩ := layField_cases f x
  · rw [hf] at h
    cases h
  · exact hw.length_eq (hr ▸ h)

/-! ### The statements -/

/-- Settles O24, by the four branches of `fdec`. -/
theorem fldDecAnswersTheDigitsOfTheValue : Obligations.FldDecAnswersTheDigitsOfTheValue := by
  intro w v s
  simp only [exec_fldDec]
  refine ⟨fun hw => ?width, fun h1 hneg => ?negative, fun h1 hbig => ?overflow, fun h1 hpos hlt => ?digits⟩
  case width => rw [fdec_width hw]; rfl
  case negative => rw [fdec_negative h1 hneg]; rfl
  case overflow => rw [fdec_tooLarge h1 hbig]; rfl
  case digits =>
    have hnat : v.toInt.toNat < 10 ^ w := by
      rw [Int.toNat_lt hpos]
      exact_mod_cast hlt
    rw [fdec_ok h1 hpos hlt]
    exact ⟨_, rfl, decimalChars_length _ _, decimalChars_range _ _, hornerDec_decimalChars hnat⟩

/-- Settles O25, by the three branches of `fraw` on the mapped text, which is as long as the text. -/
theorem fldTxtAnswersThePaddedText : Obligations.FldTxtAnswersThePaddedText := by
  intro w pad align t s
  simp only [exec_fldTxt, ← sanitize_length t]
  refine ⟨fun hw => ?width, fun h1 hlong => ?tooLong, fun h1 hlen => ?padded⟩
  case width => rw [fraw_width hw]; rfl
  case tooLong => rw [fraw_tooLong h1 hlong]; rfl
  case padded => rw [fraw_ok h1 hlen]; cases align <;> rfl

/-- Settles O26, by the three branches of `fraw`. -/
theorem fldRawAnswersThePaddedBytes : Obligations.FldRawAnswersThePaddedBytes := by
  intro w pad align b s
  simp only [exec_fldRaw]
  refine ⟨fun hw => ?width, fun h1 hlong => ?tooLong, fun h1 hlen => ?padded⟩
  case width => rw [fraw_width hw]; rfl
  case tooLong => rw [fraw_tooLong h1 hlong]; rfl
  case padded => rw [fraw_ok h1 hlen]; cases align <;> rfl

/-- Settles O28: the field's kind picks the formatter, and an operand of another type meets the last branch. -/
theorem laidOutFieldHasItsWidthAndType : Obligations.LaidOutFieldHasItsWidthAndType := by
  intro f x
  refine ⟨fun bs => layField_length, ?_⟩
  split
  case h_1 hk =>
    refine ⟨?intField, ?natField, ?large, ?other⟩
    case intField =>
      rintro v rfl
      rw [layField_decimal_int hk]
      exact (formatterAnswer_fdec _ _).answersAs (exec_fldDec _ v)
    case natField =>
      rintro n rfl hn
      rw [layField_decimal_natOrInt hk hn (.inl rfl)]
      exact (formatterAnswer_fdec _ _).answersAs fun s => by rw [exec_fldDec, toInt_ofNat_of_lt hn]
    case large =>
      rintro n rfl hn
      simp only [layField, hk, if_neg (Nat.not_lt.mpr hn), paramFault]
    case other => rintro (⟨t, rfl⟩ | ⟨b, rfl⟩) <;> simp only [layField, hk, paramFault]
  case h_2 hk =>
    refine ⟨?textField, ?other⟩
    case textField =>
      rintro t rfl
      have hlay : layField f (.text t) = unindexed (ftxt f.width f.padChar f.align t) := by simp only [layField, hk]
      exact hlay ▸ (formatterAnswer_fraw _ _ _ _).answersAs (exec_fldTxt _ _ _ t)
    case other => cases x <;> simp [layField, hk, paramFault]
  case h_3 hk =>
    refine ⟨?natField, ?other⟩
    case natField =>
      rintro n rfl
      rw [layField_nibble_nat hk]
      exact (formatterAnswer_encw _ _).answersAs (exec_vdvEncw _ n)
    case other => cases x <;> simp [layField, hk, paramFault]
  case h_4 hk =>
    refine ⟨?bytesField, ?other⟩
    case bytesField =>
      rintro b rfl
      have hlay : layField f (.bytes b) = unindexed (fraw f.width f.padChar f.align b) := by simp only [layField, hk]
      exact hlay ▸ (formatterAnswer_fraw _ _ _ _).answersAs (exec_fldRaw _ _ _ b)
    case other => cases x <;> simp [layField, hk, paramFault]

end Sys2Proof.Machine
end

section
/-! PROOF. Whole-body and streamed framing (spec/42_framer.md R101, R105, R106). A whole body is staged at address 0 and
folded there; the streamed run folds the same bytes into `CK` one request at a time. -/

namespace Sys2Proof.Machine

/-! ### Staged bytes -/

/-- A store after a byte sequence was written from address 0: the sequence, and above it what was there (R40). -/
theorem memRead_memWriteN_zero {m : Memory} (h : Memory.wf m) (bs : Bytes) (a : Nat) :
    memRead (memWriteN m 0 bs) a = (bs[a]?).getD (memRead m a) := by
  rw [memRead_memWriteN h]
  by_cases ha : a < bs.length
  · rw [if_pos ⟨a.zero_le, by omega⟩, Nat.sub_zero, List.getD_eq_getElem?_getD, List.getElem?_eq_getElem ha,
      Option.getD_some, Option.getD_some]
  · rw [if_neg (by omega), List.getElem?_eq_none (by omega), Option.getD_none]

theorem bodyStored_of_memWriteN {s t : State} {body : Bytes} (h : Memory.wf s.buf)
    (hb : t.buf = memWriteN s.buf 0 body) (hr : t.rbuf = s.rbuf) : BodyStored body s t :=
  ⟨fun a => hb ▸ memRead_memWriteN_zero h body a, fun _ => by rw [hr]⟩

/-! ### Whole-body framing -/

theorem exec_frmFrame (body : Bytes) (s : State) :
    exec (.frmFrame body) s = .next (foldWhole body (fun t => .bytes (framed t)) s) := rfl

theorem exec_frmCksum (body : Bytes) (s : State) :
    exec (.frmCksum body) s = .next (foldWhole body (fun t => .byte t.ck) s) := rfl

theorem fold_ck {body : Bytes} {s : State} (h : Memory.wf s.buf) : (fold body s).ck = cksum body := by
  rw [fold_eq h]

/-! ### Streamed framing -/

theorem run_succ_of_step_next {s t : State} (h : step s = .next t) (k : Nat) :
    Sys2Proof.core.run (k + 1) s = Sys2Proof.core.run k t := by
  have hs : Sys2Proof.core.step s = .next t := h
  simp only [Host.Core.run, hs]

/-- A queued instruction of the port is executed by the next step (R8). -/
theorem step_of_encode {s : State} {i : Instr} {rest : List Request} (hq : s.requests = encode i :: rest)
    (hi : i.wellFormed = true) : step s = exec i { s with requests := rest } :=
  step_of_decode_ok hq (decode_encode hi)

/-- The responses to one `FRM.BYTE` per byte and `FRM.END`, from an accumulator value on (R103, R104). -/
def streamedResponses : Byte → Bytes → List Response
  | c, [] => [.ok (.bytes [term, c ^^^ term])]
  | c, b :: bs => .ok (.byte b) :: streamedResponses (c ^^^ b) bs

theorem streamedResponses_ok (c : Byte) (body : Bytes) : ∀ r ∈ streamedResponses c body, ∃ x, r = .ok x := by
  induction body generalizing c with
  | nil => simp [streamedResponses]
  | cons b bs ih => simpa [streamedResponses] using ih (c ^^^ b)

theorem returnedBytes_streamedResponses (c : Byte) (body : Bytes) :
    returnedBytes (streamedResponses c body) = body ++ [0x0D, body.foldl (fun c b => c ^^^ b) c ^^^ 0x0D] := by
  induction body generalizing c with
  | nil => rfl
  | cons b bs ih => simp [streamedResponses, returnedBytes, ih]

theorem exec_frmStart_idle {s : State} (hp : s.ph = .idle) :
    exec .frmStart s = .next { s with ck := seed, ph := .body, responses := s.responses ++ [.ok .unit] } := by
  rw [exec_frmStart, whenIdle_idle hp]
  rfl

theorem exec_frmByte_open {b : Byte} {s : State} (hp : s.ph = .body) :
    exec (.frmByte b) s = .next { s with ck := s.ck ^^^ b, responses := s.responses ++ [.ok (.byte b)] } := by
  rw [exec_frmByte, whenBody_body hp]
  rfl

theorem exec_frmEnd_open {s : State} (hp : s.ph = .body) :
    exec .frmEnd s = .next { s with
      ck := seed, ph := .idle, responses := s.responses ++ [.ok (.bytes [term, s.ck ^^^ term])] } := by
  rw [exec_frmEnd, whenBody_body hp]
  rfl

/-- The run of the bytes of an open frame and its end (R103, R104, R106). -/
theorem run_streamed {body : Bytes} {s : State} (hp : s.ph = .body)
    (hq : s.requests = (body.map Instr.frmByte ++ [Instr.frmEnd]).map encode) :
    Sys2Proof.core.run (body.length + 1) s = .next { s with
      ck := seed, ph := .idle, requests := [], responses := s.responses ++ streamedResponses s.ck body } := by
  induction body generalizing s with
  | nil => exact run_succ_of_step_next ((step_of_encode hq rfl).trans (exec_frmEnd_open hp)) 0
  | cons b bs ih =>
    have hstep : step s = .next { s with
        requests := (bs.map Instr.frmByte ++ [Instr.frmEnd]).map encode
        ck := s.ck ^^^ b, responses := s.responses ++ [.ok (.byte b)] } :=
      (step_of_encode hq rfl).trans (exec_frmByte_open hp)
    refine (run_succ_of_step_next hstep _).trans ((ih (by exact hp) (by rfl)).trans ?_)
    simp [streamedResponses]

/-! ### The statements -/

/-- Settles O16, by the three courses of a whole-body fold. -/
theorem frmFrameAnswersTheFramedTelegram : Obligations.FrmFrameAnswersTheFramedTelegram := by
  intro body s hw
  refine ⟨fun hp => ?openFrame, fun hp k hk hlt => ?full, fun hp hcap => ?framed⟩
  case openFrame => rw [exec_frmFrame, foldWhole_open hp]; rfl
  case full => rw [exec_frmFrame, foldWhole_full hp (fits_of_lt hk hlt)]; rfl
  case framed => exact ⟨_, exec_frmFrame_ok hw hp (fits_of_le hcap), rfl, bodyStored_of_memWriteN hw rfl rfl⟩

/-- Settles O17, by the three courses of a whole-body fold, whose accumulator ends at the checksum. -/
theorem frmCksumAnswersTheChecksum : Obligations.FrmCksumAnswersTheChecksum := by
  intro body s hw
  refine ⟨fun hp => ?openFrame, fun hp k hk hlt => ?full, fun hp hcap => ?checksum⟩
  case openFrame => rw [exec_frmCksum, foldWhole_open hp]; rfl
  case full => rw [exec_frmCksum, foldWhole_full hp (fits_of_lt hk hlt)]; rfl
  case checksum =>
    rw [exec_frmCksum, foldWhole_ok hp (fits_of_le hcap), fold_ck hw]
    exact ⟨_, rfl, rfl, bodyStored_of_memWriteN hw rfl rfl⟩

/-- Settles O21: the first step opens the frame at the seed, the rest is the streamed run, which folds the body. -/
theorem streamedFramingReturnsTheFramedTelegram : Obligations.StreamedFramingReturnsTheFramedTelegram := by
  intro body s hp hck hq
  have hstep : step s = .next { s with
      requests := (body.map Instr.frmByte ++ [Instr.frmEnd]).map encode
      ck := seed, ph := .body, responses := s.responses ++ [.ok .unit] } :=
    (step_of_encode hq rfl).trans (exec_frmStart_idle hp)
  refine ⟨.ok .unit :: streamedResponses seed body, ?run, ?ok, returnedBytes_streamedResponses _ _⟩
  case run =>
    refine (run_succ_of_step_next hstep _).trans ((run_streamed rfl rfl).trans ?_)
    simp only [List.append_assoc, List.singleton_append, hp, hck, seed]
  case ok => exact List.forall_mem_cons.mpr ⟨⟨_, rfl⟩, streamedResponses_ok _ _⟩

end Sys2Proof.Machine
end

section
/-! PROOF. The shape encoders (spec/43_body_encoder.md R126 to R135). Each encoder has one equation per outcome of its
checks, in their order, and one inversion that says what a body it answers is; the statements about bodies, faults,
`encode_body` and char7 bytes are read off these. -/

namespace Sys2Proof.Machine

/-! ### Field lists -/

/-- The first operand that does not fit its field is the fault of a field list (R133). -/
theorem layFields_error {fs₁ fs₂ : List FieldSpec} {f : FieldSpec} {xs₁ xs₂ : List Operand} {x : Operand} {c : Cause}
    (hl : xs₁.length = fs₁.length) (hok : ∀ fx ∈ fs₁.zip xs₁, ∃ bs, layField fx.1 fx.2 = .ok bs)
    (hx : layField f x = .error c) : layFields (fs₁ ++ f :: fs₂) (xs₁ ++ x :: xs₂) = .error c := by
  induction fs₁ generalizing xs₁ with
  | nil =>
    obtain rfl := List.length_eq_zero_iff.mp hl
    simp only [List.nil_append, layFields, hx]
  | cons g fs₁ ih =>
    cases xs₁ with
    | nil => simp at hl
    | cons y xs₁ =>
      rw [List.zip_cons_cons, List.forall_mem_cons] at hok
      obtain ⟨⟨bs, hy⟩, hrest⟩ := hok
      simp only [List.cons_append, layFields, hy, ih (by simpa using hl) hrest]

/-! ### `ENC.FIXED` and `ENC.LSA` -/

theorem bodyFixed_unknown {cfg : Config} {ds : DsId} (h : dsRow cfg ds = none) (params : List Operand) :
    bodyFixed cfg ds params = .error (.unknownDs ds) := by
  simp only [bodyFixed, h]

theorem bodyLsa_unknown {cfg : Config} {ds : DsId} (h : dsRow cfg ds = none) (params : List Operand) :
    bodyLsa cfg ds params = .error (.unknownDs ds) := by
  simp only [bodyLsa, h]

/-- A row of another shape, or a wrong number of operands (R126, R133). -/
theorem bodyFixed_mismatch {cfg : Config} {ds : DsId} {params : List Operand} {row : Row} (hd : dsRow cfg ds = some row)
    (h : ∀ fs, row.shape = .fixed fs → params.length ≠ fs.length) : bodyFixed cfg ds params = paramFault := by
  simp only [bodyFixed, hd]
  split
  · next fs hs => rw [if_pos (h fs hs)]
  all_goals rfl

/-- A row of another shape, or a wrong number of operands (R132, R133). -/
theorem bodyLsa_mismatch {cfg : Config} {ds : DsId} {params : List Operand} {row : Row} (hd : dsRow cfg ds = some row)
    (h : ∀ fs, row.shape = .lsa fs → params.length ≠ fs.length) : bodyLsa cfg ds params = paramFault := by
  simp only [bodyLsa, hd]
  split
  · next fs hs => rw [if_pos (h fs hs)]
  all_goals rfl

theorem bodyFixed_error {cfg : Config} {ds : DsId} {params : List Operand} {row : Row} {fs : List FieldSpec} {c : Cause}
    (hd : dsRow cfg ds = some row) (hs : row.shape = .fixed fs) (hl : params.length = fs.length)
    (h : layFields fs params = .error c) : bodyFixed cfg ds params = .error c := by
  simp only [bodyFixed, hd, hs, h, if_neg (not_not_intro hl)]

theorem bodyLsa_error {cfg : Config} {ds : DsId} {params : List Operand} {row : Row} {fs : List FieldSpec} {c : Cause}
    (hd : dsRow cfg ds = some row) (hs : row.shape = .lsa fs) (hl : params.length = fs.length)
    (h : layFields fs params = .error c) : bodyLsa cfg ds params = .error c := by
  simp only [bodyLsa, hd, hs, h, if_neg (not_not_intro hl)]

theorem bodyFixed_laid {cfg : Config} {ds : DsId} {params : List Operand} {row : Row} {fs : List FieldSpec} {bs : Bytes}
    (hd : dsRow cfg ds = some row) (hs : row.shape = .fixed fs) (hl : params.length = fs.length)
    (h : layFields fs params = .ok bs) : bodyFixed cfg ds params = capBody cfg (prefixBytes row ++ bs) := by
  simp only [bodyFixed, hd, hs, h, if_neg (not_not_intro hl)]

theorem cdiv_two (n : Nat) : cdiv n 2 = (n + 1) / 2 := rfl

/-- More than 30 inner bytes need a length above 15 (R132). -/
theorem bodyLsa_overflow {cfg : Config} {ds : DsId} {params : List Operand} {row : Row} {fs : List FieldSpec}
    {bs : Bytes}
    (hd : dsRow cfg ds = some row) (hs : row.shape = .lsa fs) (hl : params.length = fs.length)
    (h : layFields fs params = .ok bs) (hlong : 30 < bs.length) :
    bodyLsa cfg ds params = .error (.encodingError .lengthOverflow ((bs.length + 1) / 2 : Nat)) := by
  have hover : 15 < (bs.length + 1) / 2 := by omega
  simp only [bodyLsa, hd, hs, h, if_neg (not_not_intro hl), cdiv_two]
  exact if_pos hover

/-- A count of at most 15 as its nibble character (R67, R69). -/
theorem nibbleChar_count {n : Nat} (h : n ≤ 15) : nibbleChar (BitVec.ofNat 4 n) = 0x30 ||| BitVec.ofNat 8 n := by
  rw [nibbleChar_ofNat, Nat.mod_eq_of_lt (by omega)]

theorem bodyLsa_laid {cfg : Config} {ds : DsId} {params : List Operand} {row : Row} {fs : List FieldSpec} {bs : Bytes}
    (hd : dsRow cfg ds = some row) (hs : row.shape = .lsa fs) (hl : params.length = fs.length)
    (h : layFields fs params = .ok bs) (hshort : bs.length ≤ 30) :
    bodyLsa cfg ds params =
      capBody cfg (prefixBytes row ++ [0x30 ||| BitVec.ofNat 8 ((bs.length + 1) / 2)] ++ bs) := by
  have hfits : ¬ 15 < (bs.length + 1) / 2 := by omega
  simp only [bodyLsa, hd, hs, h, if_neg (not_not_intro hl), cdiv_two, if_neg hfits,
    nibbleChar_count (Nat.le_of_not_lt hfits)]

/-! ### `ENC.BLOCK` and `ENC.LPCONN` -/

theorem blockBody_overflow {n : Nat} (h : 15 < n) (cfg : Config) (row : Row) (size : Nat) (text : Bytes) :
    blockBody cfg row size text n = .error (.encodingError .blockCountOverflow n) := by
  rw [blockBody, if_pos h]

theorem blockBody_counted {n : Nat} (h : n ≤ 15) (cfg : Config) (row : Row) (size : Nat) (text : Bytes) :
    blockBody cfg row size text n = capBody cfg
      (prefixBytes row ++ [0x30 ||| BitVec.ofNat 8 n] ++ text ++ List.replicate (n * size - text.length) 0x20) := by
  rw [blockBody, if_neg (Nat.not_lt.mpr h), nibbleChar_count h]
  rfl

/-- A counted body is its row's bytes, the count and whole blocks (R67). -/
theorem length_counted {row : Row} {text : Bytes} {n size : Nat} (h : text.length ≤ n * size) (c : Byte) :
    (prefixBytes row ++ [c] ++ text ++ List.replicate (n * size - text.length) (0x20 : Byte)).length =
      row.pre.length + 1 + n * size := by
  simp only [prefixBytes, List.length_append, List.length_map, List.length_singleton, List.length_replicate]
  omega

/-- The count of blocks is the only one whose blocks hold the text with less than a block to spare (R129). -/
theorem blockCount_unique {a b n m : Nat} (hn : a ≤ n * b) (hn' : n * b < a + b) (hm : a ≤ m * b)
    (hm' : m * b < a + b) : n = m := by
  have hle {i j : Nat} (hi : i * b < a + b) (hj : a ≤ j * b) : i ≤ j := by
    by_contra hlt
    have := Nat.mul_le_mul_right b (Nat.lt_of_not_le hlt)
    rw [Nat.succ_mul] at this
    omega
  exact Nat.le_antisymm (hle hn' hm) (hle hm' hn)

theorem bodyBlock_unknown {cfg : Config} {ds : DsId} (h : dsRow cfg ds = none) (t : Text) :
    bodyBlock cfg ds t = .error (.unknownDs ds) := by
  simp only [bodyBlock, h]

theorem bodyBlock_mismatch {cfg : Config} {ds : DsId} {row : Row} (hd : dsRow cfg ds = some row)
    (h : ∀ size, row.shape ≠ .block size) (t : Text) : bodyBlock cfg ds t = paramFault := by
  simp only [bodyBlock, hd]
  split
  · next size hs => exact absurd hs (h size)
  all_goals rfl

theorem bodyBlock_row {cfg : Config} {ds : DsId} {row : Row} {size : BlockSize} (hd : dsRow cfg ds = some row)
    (hs : row.shape = .block size) (t : Text) :
    bodyBlock cfg ds t = blockBody cfg row size.bytes (sanitize t) (cdiv t.length size.bytes) := by
  simp only [bodyBlock, hd, hs, sanitize_length]

theorem bodyLpconn_unknown {cfg : Config} {ds : DsId} (h : dsRow cfg ds = none) (x : Operand) (a b : Text) :
    bodyLpconn cfg ds x a b = .error (.unknownDs ds) := by
  simp only [bodyLpconn, h]

theorem bodyLpconn_mismatch {cfg : Config} {ds : DsId} {row : Row} (hd : dsRow cfg ds = some row)
    (h : ∀ spec size, row.shape ≠ .lpconn spec size) (x : Operand) (a b : Text) :
    bodyLpconn cfg ds x a b = paramFault := by
  simp only [bodyLpconn, hd]
  split
  · next spec size hs => exact absurd hs (h spec size)
  all_goals rfl

theorem bodyLpconn_error {cfg : Config} {ds : DsId} {row : Row} {spec : FieldSpec} {size : BlockSize} {x : Operand}
    {a b : Text} {c : Cause} (hd : dsRow cfg ds = some row) (hs : row.shape = .lpconn spec size)
    (hc : composeLp cfg row spec x a b = .error c) : bodyLpconn cfg ds x a b = .error c := by
  simp only [bodyLpconn, hd, hs, hc]

theorem bodyLpconn_composed {cfg : Config} {ds : DsId} {row : Row} {spec : FieldSpec} {size : BlockSize} {x : Operand}
    {a b : Text} {c : Bytes} (hd : dsRow cfg ds = some row) (hs : row.shape = .lpconn spec size)
    (hc : composeLp cfg row spec x a b = .ok c) :
    bodyLpconn cfg ds x a b = blockBody cfg row size.bytes c (divmodCount c.length size.bytes) := by
  simp only [bodyLpconn, hd, hs, hc]

theorem composeLp_stopId_error {spec : FieldSpec} {x : Operand} {c : Cause} (h : layField spec x = .error c)
    (cfg : Config) (row : Row) (a b : Text) : composeLp cfg row spec x a b = .error (atOperand 1 c) := by
  simp only [composeLp, h]

/-! ### What a body is -/

theorem bodyFixed_eq_ok {cfg : Config} {ds : DsId} {params : List Operand} {body : Bytes}
    (h : bodyFixed cfg ds params = .ok body) :
    ∃ row fs bs, dsRow cfg ds = some row ∧ row.shape = .fixed fs ∧ layFields fs params = .ok bs ∧
      body = prefixBytes row ++ bs ∧ fits cfg.bufCap body.length = true := by
  unfold bodyFixed at h
  split at h
  · cases h
  · next row hd =>
    split at h
    · next fs hs =>
      split at h
      · cases h
      · split at h
        · cases h
        · next bs hb => exact ⟨row, fs, bs, hd, hs, hb, capBody_eq_ok h⟩
    all_goals cases h

theorem bodyLsa_eq_ok {cfg : Config} {ds : DsId} {params : List Operand} {body : Bytes}
    (h : bodyLsa cfg ds params = .ok body) :
    ∃ row fs bs, dsRow cfg ds = some row ∧ row.shape = .lsa fs ∧ layFields fs params = .ok bs ∧
      (∃ n, body = prefixBytes row ++ [nibbleChar n] ++ bs) ∧ fits cfg.bufCap body.length = true := by
  unfold bodyLsa at h
  split at h
  · cases h
  · next row hd =>
    split at h
    · next fs hs =>
      split at h
      · cases h
      · split at h
        · cases h
        · next bs hb =>
          split at h
          · cases h
          · obtain ⟨hbody, hf⟩ := capBody_eq_ok h
            exact ⟨row, fs, bs, hd, hs, hb, ⟨_, hbody⟩, hf⟩
    all_goals cases h

theorem blockBody_eq_ok {cfg : Config} {row : Row} {size n : Nat} {text body : Bytes}
    (h : blockBody cfg row size text n = .ok body) :
    n ≤ 15 ∧ body = prefixBytes row ++ [nibbleChar (BitVec.ofNat 4 n)] ++ text ++
      List.replicate (n * size - text.length) padText ∧ fits cfg.bufCap body.length = true := by
  unfold blockBody at h
  split at h
  · cases h
  · next hn => exact ⟨Nat.le_of_not_lt hn, capBody_eq_ok h⟩

theorem bodyBlock_eq_ok {cfg : Config} {ds : DsId} {t : Text} {body : Bytes} (h : bodyBlock cfg ds t = .ok body) :
    ∃ row size, dsRow cfg ds = some row ∧ row.shape = .block size ∧
      blockBody cfg row size.bytes (sanitize t) (cdiv t.length size.bytes) = .ok body := by
  cases hd : dsRow cfg ds with
  | none => simp [bodyBlock_unknown hd] at h
  | some row =>
    by_cases hs : ∃ size, row.shape = .block size
    · obtain ⟨size, hs⟩ := hs
      exact ⟨row, size, rfl, hs, bodyBlock_row hd hs t ▸ h⟩
    · simp [bodyBlock_mismatch hd (not_exists.mp hs), paramFault] at h

theorem bodyLpconn_eq_ok {cfg : Config} {ds : DsId} {x : Operand} {a b : Text} {body : Bytes}
    (h : bodyLpconn cfg ds x a b = .ok body) :
    ∃ row spec size c, dsRow cfg ds = some row ∧ row.shape = .lpconn spec size ∧
      composeLp cfg row spec x a b = .ok c ∧
      blockBody cfg row size.bytes c (divmodCount c.length size.bytes) = .ok body := by
  cases hd : dsRow cfg ds with
  | none => simp [bodyLpconn_unknown hd] at h
  | some row =>
    by_cases hs : ∃ spec size, row.shape = .lpconn spec size
    · obtain ⟨spec, size, hs⟩ := hs
      cases hc : composeLp cfg row spec x a b with
      | error c => simp [bodyLpconn_error hd hs hc] at h
      | ok c => exact ⟨row, spec, size, c, rfl, hs, hc, bodyLpconn_composed hd hs hc ▸ h⟩
    · simp only [not_exists] at hs
      simp [bodyLpconn_mismatch hd hs, paramFault] at h

/-- A composite is its operands with gaps around them that meet the constraint of R68. -/
theorem composeLp_eq_ok {cfg : Config} {row : Row} {spec : FieldSpec} {x : Operand} {a b : Text} {c : Bytes}
    (h : composeLp cfg row spec x a b = .ok c) :
    ∃ g piece, layField spec x = .ok piece ∧ gapsOk g = true ∧
      c = g.before ++ piece ++ g.afterId ++ sanitize a ++ g.afterStop ++ sanitize b ++ g.afterChange := by
  unfold composeLp at h
  split at h
  · cases h
  · next piece hp =>
    split at h
    · cases h
    · next g hg =>
      cases h
      exact ⟨g, piece, hp, lpGaps_ok hg, rfl⟩

/-- `encode_body` is the encoder of some shape (R134). -/
theorem encodeBody_eq_ok {cfg : Config} {ds : DsId} {params : List Operand} {body : Bytes}
    (h : encodeBody cfg ds params = .ok body) :
    bodyFixed cfg ds params = .ok body ∨ bodyLsa cfg ds params = .ok body ∨
      (∃ t, params = [.text t] ∧ bodyBlock cfg ds t = .ok body) ∨
      ∃ x a b, params = [x, .text a, .text b] ∧ bodyLpconn cfg ds x a b = .ok body := by
  unfold encodeBody at h
  split at h
  · cases h
  · split at h
    · exact .inl h
    · split at h
      · exact .inr (.inr (.inl ⟨_, rfl, h⟩))
      · cases h
    · split at h
      · exact .inr (.inr (.inr ⟨_, _, _, rfl, h⟩))
      · cases h
    · exact .inr (.inl h)

theorem bodyBlock_fits {cfg : Config} {ds : DsId} {t : Text} {body : Bytes} (h : bodyBlock cfg ds t = .ok body) :
    fits cfg.bufCap body.length = true := by
  obtain ⟨row, size, -, -, hb⟩ := bodyBlock_eq_ok h
  exact (blockBody_eq_ok hb).2.2

theorem bodyLpconn_fits {cfg : Config} {ds : DsId} {x : Operand} {a b : Text} {body : Bytes}
    (h : bodyLpconn cfg ds x a b = .ok body) : fits cfg.bufCap body.length = true := by
  obtain ⟨row, spec, size, c, -, -, -, hb⟩ := bodyLpconn_eq_ok h
  exact (blockBody_eq_ok hb).2.2

theorem bodyFixed_fits {cfg : Config} {ds : DsId} {params : List Operand} {body : Bytes}
    (h : bodyFixed cfg ds params = .ok body) : fits cfg.bufCap body.length = true := by
  obtain ⟨_, _, _, -, -, -, -, hf⟩ := bodyFixed_eq_ok h
  exact hf

theorem bodyLsa_fits {cfg : Config} {ds : DsId} {params : List Operand} {body : Bytes}
    (h : bodyLsa cfg ds params = .ok body) : fits cfg.bufCap body.length = true := by
  obtain ⟨_, _, _, -, -, -, -, hf⟩ := bodyLsa_eq_ok h
  exact hf

/-- A body that an encoder answers fits the body buffer (R48, R177). -/
theorem encodeBody_fits {cfg : Config} {ds : DsId} {params : List Operand} {body : Bytes}
    (h : encodeBody cfg ds params = .ok body) : fits cfg.bufCap body.length = true := by
  obtain h | h | ⟨t, -, h⟩ | ⟨x, a, b, -, h⟩ := encodeBody_eq_ok h
  · exact bodyFixed_fits h
  · exact bodyLsa_fits h
  · exact bodyBlock_fits h
  · exact bodyLpconn_fits h

end Sys2Proof.Machine
end

section
/-! PROOF. The statements about bodies (spec/43_body_encoder.md R126 to R135, spec/30_encoding.md R67 to R71): what the
four encoders answer, the order of their faults, `encode_body` as the encoder of the row's shape, char7 bodies, and the
layouts of the pinned rows. -/

namespace Sys2Proof.Machine

/-! ### The operations -/

theorem exec_encBlock (ds : DsId) (t : Text) (s : State) :
    exec (.encBlock ds t) s = .next (finishBody (.encBlock ds t) (bodyBlock s.cfg ds t) s) := rfl

theorem exec_encLpconn (ds : DsId) (x : Operand) (a b : Text) (s : State) :
    exec (.encLpconn ds x a b) s = .next (finishBody (.encLpconn ds x a b) (bodyLpconn s.cfg ds x a b) s) := rfl

theorem exec_encLsa (ds : DsId) (params : List Operand) (s : State) :
    exec (.encLsa ds params) s = .next (finishBody (.encLsa ds params) (bodyLsa s.cfg ds params) s) := rfl

/-- All that an encoder's fault does (R120, R178). -/
theorem exec_body_error {i : Instr} {r : Except Cause Bytes} {s : State} {c : Cause}
    (hi : exec i s = .next (finishBody i r s)) (hr : r = .error c) :
    exec i s = .next { s with
      blen := 0, rlen := 0, responses := s.responses ++ [.fault (settleFor s.cfg (encode i) c)] } := by
  rw [hi, hr, finishBody_error]
  rfl

/-- All that an encoder's body does: it stands in `BUF` and is the response (R120). -/
theorem exec_body_ok {i : Instr} {r : Except Cause Bytes} {s : State} {body : Bytes} (hw : Memory.wf s.buf)
    (hi : exec i s = .next (finishBody i r s)) (hr : r = .ok body) :
    ∃ t, exec i s = .next t ∧
      t = { s with buf := t.buf, blen := 0, responses := s.responses ++ [.ok (.bytes body)] } ∧
      BodyStored body s t := by
  rw [hi, hr, finishBody_ok]
  exact ⟨_, rfl, rfl, bodyStored_of_memWriteN hw rfl rfl⟩

theorem capBody_full {cfg : Config} {body : Bytes} {k : Nat} (hc : cfg.bufCap = some k) (hk : k < body.length) :
    capBody cfg body = .error (.capacityFault .buf) := by
  rw [capBody, fits_of_lt hc hk]
  rfl

/-- A body of a known length that the buffer holds. -/
theorem capBody_of_length_le {cfg : Config} {body : Bytes} {n : Nat} (hn : body.length = n)
    (h : ∀ k, cfg.bufCap = some k → n ≤ k) : capBody cfg body = .ok body :=
  capBody_ok (fits_of_le (hn ▸ h))

theorem length_prefixBytes (row : Row) : (prefixBytes row).length = row.pre.length := by
  simp [prefixBytes]

/-! ### The count of blocks -/

/-- A text's count from its bounds (R129). -/
theorem cdiv_eq_of_bounds {size : BlockSize} {l n : Nat} (h : l ≤ n * size.bytes)
    (h' : n * size.bytes < l + size.bytes) : cdiv l size.bytes = n := by
  obtain ⟨hlo, hhi⟩ := cdiv_bounds l (blockSize_pos size)
  exact blockCount_unique hlo hhi h h'

/-- A composite's count from its bounds (R130). -/
theorem divmodCount_eq_of_bounds {size : BlockSize} {l n : Nat} (h : l ≤ n * size.bytes)
    (h' : n * size.bytes < l + size.bytes) : divmodCount l size.bytes = n := by
  obtain ⟨hlo, hhi⟩ := divmodCount_bounds (a := l) (blockSize_pos size)
  exact blockCount_unique hlo hhi h h'

/-- A counted body that the buffer does not hold (R177). -/
theorem blockBody_full {cfg : Config} {row : Row} {size n k : Nat} {text : Bytes} (hn : n ≤ 15)
    (hl : text.length ≤ n * size) (hc : cfg.bufCap = some k) (hk : k < row.pre.length + 1 + n * size) :
    blockBody cfg row size text n = .error (.capacityFault .buf) := by
  rw [blockBody_counted hn, capBody_full hc (by rwa [length_counted hl])]

/-- A counted body that the buffer holds (R67). -/
theorem blockBody_ok {cfg : Config} {row : Row} {size n : Nat} {text : Bytes} (hn : n ≤ 15)
    (hl : text.length ≤ n * size) (hc : ∀ k, cfg.bufCap = some k → row.pre.length + 1 + n * size ≤ k) :
    blockBody cfg row size text n = .ok
      (prefixBytes row ++ [0x30 ||| BitVec.ofNat 8 n] ++ text ++ List.replicate (n * size - text.length) 0x20) := by
  rw [blockBody_counted hn, capBody_of_length_le (length_counted hl _) hc]

/-! ### The composition of `ENC.LPCONN` -/

/-- What the configuration's `LPCONN_COMPOSE` answers before the constraint is looked at (R68, log entry 12). -/
def composition (cfg : Config) (row : Row) (x : Operand) (a b : Text) : Except LpFault LpGaps :=
  match cfg.lpCompose with
  | .gaps g => .ok g
  | .unknown k => Config.openCompose k row x a b

theorem lpGaps_of_composition_error {cfg : Config} {row : Row} {x : Operand} {a b : Text} {f : LpFault}
    (h : composition cfg row x a b = .error f) : lpGaps cfg row x a b = .error (lpFaultCause f) := by
  unfold composition at h
  split at h
  · cases h
  · next k hk => simp only [lpGaps, hk, h]

theorem lpGaps_of_composition_ok {cfg : Config} {row : Row} {x : Operand} {a b : Text} {g : LpGaps}
    (h : composition cfg row x a b = .ok g) :
    lpGaps cfg row x a b = .ok (if gapsOk g then g else Config.referenceGaps) := by
  unfold composition at h
  split at h
  · next g' hg =>
    cases h
    simp only [lpGaps, hg]
  · next k hk => simp only [lpGaps, hk, h]

/-- The composition's own faults name their operand, so they are recorded as they are (R170). -/
theorem settleFor_lpFaultCause (cfg : Config) (r : Request) (f : LpFault) :
    settleFor cfg r (lpFaultCause f) = lpFaultCause f := by
  cases f <;> rfl

/-- A composite holds the three control bytes, so it is not empty (R68). -/
theorem composite_length_pos {g : LpGaps} (hg : gapsOk g = true) (p q r : Bytes) :
    0 < (g.before ++ p ++ g.afterId ++ q ++ g.afterStop ++ r ++ g.afterChange).length := by
  obtain ⟨hcontrols, -⟩ := gapsOk_iff.mp hg
  have hthree := List.length_filter_le isControl (g.before ++ g.afterId ++ g.afterStop ++ g.afterChange)
  rw [hcontrols] at hthree
  simp only [List.length_append, List.length_cons, List.length_nil] at hthree ⊢
  omega

/-! ### `encode_body` -/

theorem encodeBody_unknown {cfg : Config} {ds : DsId} (h : dsRow cfg ds = none) (params : List Operand) :
    encodeBody cfg ds params = .error (.unknownDs ds) := by
  simp only [encodeBody, h]

theorem encodeBody_fixed {cfg : Config} {ds : DsId} {row : Row} {fs : List FieldSpec} (hd : dsRow cfg ds = some row)
    (hs : row.shape = .fixed fs) (params : List Operand) : encodeBody cfg ds params = bodyFixed cfg ds params := by
  simp only [encodeBody, hd, hs]

theorem encodeBody_lsa {cfg : Config} {ds : DsId} {row : Row} {fs : List FieldSpec} (hd : dsRow cfg ds = some row)
    (hs : row.shape = .lsa fs) (params : List Operand) : encodeBody cfg ds params = bodyLsa cfg ds params := by
  simp only [encodeBody, hd, hs]

theorem encodeBody_block {cfg : Config} {ds : DsId} {row : Row} {size : BlockSize} (hd : dsRow cfg ds = some row)
    (hs : row.shape = .block size) (t : Text) : encodeBody cfg ds [.text t] = bodyBlock cfg ds t := by
  simp only [encodeBody, hd, hs]

theorem encodeBody_lpconn {cfg : Config} {ds : DsId} {row : Row} {spec : FieldSpec} {size : BlockSize}
    (hd : dsRow cfg ds = some row) (hs : row.shape = .lpconn spec size) (x : Operand) (a b : Text) :
    encodeBody cfg ds [x, .text a, .text b] = bodyLpconn cfg ds x a b := by
  simp only [encodeBody, hd, hs]

/-- An operand list that is not one text does not spread over `ENC.BLOCK` (R134). -/
theorem encodeBody_block_mismatch {cfg : Config} {ds : DsId} {row : Row} {size : BlockSize} {params : List Operand}
    (hd : dsRow cfg ds = some row) (hs : row.shape = .block size) (h : ∀ t, params ≠ [.text t]) :
    encodeBody cfg ds params = paramFault := by
  simp only [encodeBody, hd, hs]

/-- An operand list that is not an operand and two texts does not spread over `ENC.LPCONN` (R134). -/
theorem encodeBody_lpconn_mismatch {cfg : Config} {ds : DsId} {row : Row} {spec : FieldSpec} {size : BlockSize}
    {params : List Operand} (hd : dsRow cfg ds = some row) (hs : row.shape = .lpconn spec size)
    (h : ∀ x a b, params ≠ [x, .text a, .text b]) : encodeBody cfg ds params = paramFault := by
  simp only [encodeBody, hd, hs]

theorem encodesAs_of_exec {i : Instr} {r : Except Cause Bytes} {s : State}
    (hi : exec i s = .next (finishBody i r s)) : EncodesAs s r i := by
  refine ⟨_, hi, ?_⟩
  cases r <;> rfl

/-! ### Char7 bodies -/

theorem sevenBit_prefixBytes (row : Row) : SevenBit (prefixBytes row) :=
  List.forall_mem_map.mpr fun c _ => charByte_le_0x7F c

theorem sevenBit_decimalChars (w v : Nat) : SevenBit (decimalChars w v) := by
  intro b hb
  obtain ⟨-, hhi⟩ := decimalChars_range w v b hb
  exact BitVec.le_trans hhi (by decide)

theorem sevenBit_nibbleChars (k v : Nat) : SevenBit (nibbleChars k v) :=
  List.forall_mem_map.mpr fun _ _ => nibbleChar_le_0x7F _

theorem sevenBit_padTo {b : Bytes} (h : SevenBit b) (w : Nat) (pad : Char7) (align : Align) :
    SevenBit (padTo w pad align b) := by
  have hpad := sevenBit_replicate (charByte_le_0x7F pad) (w - b.length)
  cases align
  · exact sevenBit_append.mpr ⟨h, hpad⟩
  · exact sevenBit_append.mpr ⟨hpad, h⟩

theorem sevenBit_of_fdec {w : Nat} {v : Int} {bs : Bytes} (h : unindexed (fdec w v) = .ok bs) : SevenBit bs := by
  have hok := unindexed_ok h
  obtain hf | ⟨sub, hf⟩ | ⟨-, -, -, hf⟩ := fdec_cases w v <;> rw [hf] at hok <;> cases hok
  exact sevenBit_decimalChars _ _

theorem sevenBit_of_encw {k v : Nat} {bs : Bytes} (h : unindexed (encw k v) = .ok bs) : SevenBit bs := by
  have hok := unindexed_ok h
  obtain hf | ⟨sub, x, hf⟩ | ⟨-, hf⟩ := encw_cases k v <;> rw [hf] at hok <;> cases hok
  exact sevenBit_nibbleChars _ _

theorem sevenBit_of_ftxt {w : Nat} {pad : Char7} {align : Align} {t : Text} {bs : Bytes}
    (h : unindexed (ftxt w pad align t) = .ok bs) : SevenBit bs := by
  have hok := unindexed_ok h
  rw [ftxt] at hok
  obtain hf | ⟨sub, x, hf⟩ | ⟨-, hf⟩ := fraw_cases w pad align (sanitize t) <;> rw [hf] at hok <;> cases hok
  exact sevenBit_padTo (sevenBit_sanitize t) _ _ _

/-- A laid-out field that is not raw has char7 bytes only (R135). -/
theorem sevenBit_layField {f : FieldSpec} {x : Operand} {bs : Bytes} (hk : f.kind ≠ .raw)
    (h : layField f x = .ok bs) : SevenBit bs := by
  unfold layField at h
  split at h
  · exact sevenBit_of_fdec h
  · split at h
    · exact sevenBit_of_fdec h
    · cases h
  · exact sevenBit_of_ftxt h
  · exact sevenBit_of_encw h
  · next hraw => exact absurd hraw hk
  · cases h

theorem sevenBit_layFields {fs : List FieldSpec} {xs : List Operand} {bs : Bytes} (hk : ∀ f ∈ fs, f.kind ≠ .raw)
    (h : layFields fs xs = .ok bs) : SevenBit bs := by
  induction fs generalizing xs bs with
  | nil =>
    cases h
    exact sevenBit_nil
  | cons f fs ih =>
    obtain ⟨hf, hfs⟩ := List.forall_mem_cons.mp hk
    cases xs with
    | nil => cases h
    | cons x xs =>
      rw [layFields] at h
      split at h
      · cases h
      · next b hb =>
        split at h <;> cases h
        next rest hrest => exact sevenBit_append.mpr ⟨sevenBit_layField hf hb, ih hfs hrest⟩

theorem sevenBit_blockBody {cfg : Config} {row : Row} {size n : Nat} {text body : Bytes} (ht : SevenBit text)
    (h : blockBody cfg row size text n = .ok body) : SevenBit body := by
  obtain ⟨-, rfl, -⟩ := blockBody_eq_ok h
  exact sevenBit_append.mpr ⟨sevenBit_append.mpr ⟨sevenBit_append.mpr ⟨sevenBit_prefixBytes row,
    sevenBit_cons.mpr ⟨nibbleChar_le_0x7F _, sevenBit_nil⟩⟩, ht⟩, sevenBit_replicate (by decide) _⟩

theorem sevenBit_composeLp {cfg : Config} {row : Row} {spec : FieldSpec} {x : Operand} {a b : Text} {c : Bytes}
    (hk : spec.kind ≠ .raw) (h : composeLp cfg row spec x a b = .ok c) : SevenBit c := by
  obtain ⟨g, piece, hp, hg, rfl⟩ := composeLp_eq_ok h
  have hgaps : SevenBit (g.before ++ g.afterId ++ g.afterStop ++ g.afterChange) := (gapsOk_iff.mp hg).2
  simp only [sevenBit_append] at hgaps ⊢
  obtain ⟨⟨⟨hbefore, hid⟩, hstop⟩, hchange⟩ := hgaps
  exact ⟨⟨⟨⟨⟨⟨hbefore, sevenBit_layField hk hp⟩, hid⟩, sevenBit_sanitize a⟩, hstop⟩, sevenBit_sanitize b⟩, hchange⟩

/-! ### The pinned rows -/

theorem charDigit_digitChar : ∀ d < 10, charDigit (0x30 + BitVec.ofNat 8 d) = some (BitVec.ofNat 4 d) := by decide

theorem toNat_ofNat_four {n : Nat} (h : n < 16) : (BitVec.ofNat 4 n).toNat = n := by
  rw [BitVec.toNat_ofNat, Nat.mod_eq_of_lt (by omega)]

/-- The body of `LINE_NUMBER` is its prefix and three digits of a number they hold (R71, R127). -/
theorem encodeBody_lineNumber {cfg : Config} {v : Nat} {body : Bytes}
    (h : encodeBody cfg .lineNumber [.nat v] = .ok body) : v ≤ 999 ∧ body = 0x6C :: decimalChars 3 v := by
  have herror {c : Cause} (hc : layField lineNumberField (.nat v) = .error c) : False := by
    rw [encodeBody_fixed (dsRow_lineNumber cfg) rowLineNumber_shape,
      bodyFixed_single_error (dsRow_lineNumber cfg) rowLineNumber_shape hc] at h
    cases h
  have hsmall : v < 2 ^ 31 := by
    by_contra hbig
    exact herror (c := .paramFault none none) (by simp only [layField, lineNumberField, if_neg hbig, paramFault])
  have hv : v ≤ 999 := by
    by_contra h999
    exact herror (layField_lineNumber_overflow (by omega) hsmall (.inl rfl))
  rw [encodeBody_fixed (dsRow_lineNumber cfg) rowLineNumber_shape,
    bodyFixed_single_ok (dsRow_lineNumber cfg) rowLineNumber_shape (layField_lineNumber_ok hv (.inl rfl))] at h
  exact ⟨hv, (capBody_eq_ok h).1⟩

/-- The body of `LP_NEXT_STOP_ID` is its prefix and two nibble characters of a number they hold (R71, R127). -/
theorem encodeBody_lpNextStopId {cfg : Config} {v : Nat} {body : Bytes}
    (h : encodeBody cfg .lpNextStopId [.nat v] = .ok body) : v ≤ 255 ∧ body = 0x78 :: 0x5A :: nibbleChars 2 v := by
  have hv : v ≤ 255 := by
    by_contra h255
    rw [encodeBody_fixed (dsRow_lpNextStopId cfg) rowLpNextStopId_shape,
      bodyFixed_single_error (dsRow_lpNextStopId cfg) rowLpNextStopId_shape
        (layField_lpNextStopId_overflow (by omega))] at h
    cases h
  rw [encodeBody_fixed (dsRow_lpNextStopId cfg) rowLpNextStopId_shape,
    bodyFixed_single_ok (dsRow_lpNextStopId cfg) rowLpNextStopId_shape (layField_lpNextStopId_ok hv)] at h
  exact ⟨hv, (capBody_eq_ok h).1⟩

theorem dsRow_destText (cfg : Config) : dsRow cfg .destText = some rowDestText := rfl

/-- The body of `DEST_TEXT` is its header and whole blocks of char7 text (R67, R71). -/
theorem encodeBody_destText {cfg : Config} {t : Text} {body : Bytes}
    (h : encodeBody cfg .destText [.text t] = .ok body) :
    ∃ (n : Nibble) (text : Bytes),
      body = 0x7A :: 0x41 :: nibbleChar n :: text ∧ text.length = n.toNat * 16 ∧ SevenBit text := by
  rw [encodeBody_block (dsRow_destText cfg) rfl, bodyBlock_row (dsRow_destText cfg) rfl] at h
  obtain ⟨hn, rfl, -⟩ := blockBody_eq_ok h
  obtain ⟨hbound, -⟩ := cdiv_bounds t.length (blockSize_pos .b16)
  refine ⟨_, sanitize t ++ List.replicate _ padText, by rw [List.append_assoc]; rfl, ?length,
    sevenBit_append.mpr ⟨sevenBit_sanitize t, sevenBit_replicate (by decide) _⟩⟩
  rw [toNat_ofNat_four (by omega), List.length_append, List.length_replicate, sanitize_length]
  exact Nat.add_sub_cancel' hbound

/-! ### The statements -/

/-- Settles O29: the prefix and the laid-out fields pass the last check. -/
theorem encFixedAnswersPrefixAndFields : Obligations.EncFixedAnswersPrefixAndFields := by
  intro ds params s row fields pieces hw hd hs hl hp hcap
  have hbody := capBody_of_length_le (body := prefixBytes row ++ pieces.flatten)
    (by rw [List.length_append, length_prefixBytes]) hcap
  exact exec_body_ok hw (exec_encFixed ds params s) ((bodyFixed_laid hd hs hl (layFields_ok hl hp)).trans hbody)

/-- Settles O30, with the count that `cdiv` gives. -/
theorem encBlockAnswersCountedPaddedText : Obligations.EncBlockAnswersCountedPaddedText := by
  intro ds text s row size hw hd hs
  obtain ⟨hlo, hhi⟩ := cdiv_bounds text.length (blockSize_pos size)
  refine ⟨_, hlo, hhi, fun hover => ?overflow, fun hn hcap => ?counted⟩
  case overflow =>
    exact exec_body_error (exec_encBlock ds text s) ((bodyBlock_row hd hs text).trans (blockBody_overflow hover ..))
  case counted =>
    have hbody := blockBody_ok hn (text := sanitize text) (by rwa [sanitize_length]) hcap
    obtain ⟨t, ht, hrec, hstored⟩ := exec_body_ok hw (exec_encBlock ds text s) ((bodyBlock_row hd hs text).trans hbody)
    rw [sanitize_length] at hrec hstored
    exact ⟨t, _, ht, rfl, hrec, hstored⟩

/-- Settles O31: the composition's own fault, or gaps that meet the constraint, counted by `divmod`. -/
theorem encLpconnAnswersCountedComposite : Obligations.EncLpconnAnswersCountedComposite := by
  intro ds stopId stopText changeText s row spec size idBytes hw hd hs hid
  have hcompose := composeLp_laid (cfg := s.cfg) (row := row) (a := stopText) (b := changeText) hid
  split
  case h_1 f hf =>
    rw [lpGaps_of_composition_error hf] at hcompose
    have hfault := exec_body_error (exec_encLpconn ds stopId stopText changeText s) (bodyLpconn_error hd hs hcompose)
    rw [settleFor_lpFaultCause] at hfault
    cases f <;> exact hfault
  case h_2 g₀ hg₀ =>
    have hgaps := lpGaps_of_composition_ok hg₀
    have hok := lpGaps_ok hgaps
    rw [hgaps] at hcompose
    have hbody := bodyLpconn_composed hd hs hcompose
    obtain ⟨hcontrols, hseven⟩ := gapsOk_iff.mp hok
    obtain ⟨hlo, hhi⟩ := divmodCount_bounds (a := _) (blockSize_pos size)
    refine ⟨_, _, _, rfl, hcontrols, hseven, fun h1 h2 => if_pos (gapsOk_iff.mpr ⟨h1, h2⟩), ?positive, hlo, hhi,
      fun hover => ?overflow, fun hn hcap => ?counted⟩
    case positive =>
      have hpos := composite_length_pos hok idBytes (sanitize stopText) (sanitize changeText)
      exact Nat.pos_of_mul_pos_right (hpos.trans_le hlo)
    case overflow =>
      exact exec_body_error (exec_encLpconn ds stopId stopText changeText s)
        (hbody.trans (blockBody_overflow hover ..))
    case counted =>
      obtain ⟨t, ht, hrec, hstored⟩ := exec_body_ok hw (exec_encLpconn ds stopId stopText changeText s)
        (hbody.trans (blockBody_ok hn hlo hcap))
      exact ⟨t, _, ht, rfl, hrec, hstored⟩

/-- Settles O32: the two sides of the bound on the inner body. -/
theorem encLsaAnswersLengthPrefixedFields : Obligations.EncLsaAnswersLengthPrefixedFields := by
  intro ds params s row fields pieces hw hd hs hl hp
  have hlay := layFields_ok hl hp
  refine ⟨fun hlong => ?overflow, fun hshort hcap => ?inner⟩
  case overflow => exact exec_body_error (exec_encLsa ds params s) (bodyLsa_overflow hd hs hl hlay hlong)
  case inner =>
    have hbody := capBody_of_length_le
      (body := prefixBytes row ++ [0x30 ||| BitVec.ofNat 8 ((pieces.flatten.length + 1) / 2)] ++ pieces.flatten)
      (by simp only [List.length_append, length_prefixBytes, List.length_singleton]) hcap
    obtain ⟨t, ht, hrec, hstored⟩ :=
      exec_body_ok hw (exec_encLsa ds params s) ((bodyLsa_laid hd hs hl hlay hshort).trans hbody)
    exact ⟨t, _, ht, rfl, hrec, hstored⟩

/-- Settles O35: each shape's branch of `encode_body` is its encoder's body. -/
theorem encodeBodyIsTheEncoderOfTheShape : Obligations.EncodeBodyIsTheEncoderOfTheShape := by
  intro s ds params
  refine ⟨fun hd => encodeBody_unknown hd params, fun row hd => ?_⟩
  split
  case h_1 fs hs => exact encodeBody_fixed hd hs params ▸ encodesAs_of_exec (exec_encFixed ds params s)
  case h_2 fs hs => exact encodeBody_lsa hd hs params ▸ encodesAs_of_exec (exec_encLsa ds params s)
  case h_3 size hs =>
    refine ⟨?_, encodeBody_block_mismatch hd hs⟩
    rintro t rfl
    exact encodeBody_block hd hs t ▸ encodesAs_of_exec (exec_encBlock ds t s)
  case h_4 spec size hs =>
    refine ⟨?_, encodeBody_lpconn_mismatch hd hs⟩
    rintro x a b rfl
    exact encodeBody_lpconn hd hs x a b ▸ encodesAs_of_exec (exec_encLpconn ds x a b s)

/-- Settles O36, by the shape of the body. -/
theorem bodiesWithoutRawFieldsAreSevenBit : Obligations.BodiesWithoutRawFieldsAreSevenBit := by
  intro cfg ds params row body hd hbody hraw
  suffices SevenBit body from this
  obtain h | h | ⟨t, -, h⟩ | ⟨x, a, b, -, h⟩ := encodeBody_eq_ok hbody
  · obtain ⟨row', fs, bs, hd', hs, hlay, rfl, -⟩ := bodyFixed_eq_ok h
    obtain rfl : row = row' := Option.some.inj (hd.symm.trans hd')
    rw [hs] at hraw
    exact sevenBit_append.mpr ⟨sevenBit_prefixBytes row, sevenBit_layFields hraw hlay⟩
  · obtain ⟨row', fs, bs, hd', hs, hlay, ⟨n, rfl⟩, -⟩ := bodyLsa_eq_ok h
    obtain rfl : row = row' := Option.some.inj (hd.symm.trans hd')
    rw [hs] at hraw
    exact sevenBit_append.mpr ⟨sevenBit_append.mpr ⟨sevenBit_prefixBytes row,
      sevenBit_cons.mpr ⟨nibbleChar_le_0x7F n, sevenBit_nil⟩⟩, sevenBit_layFields hraw hlay⟩
  · obtain ⟨_, _, -, -, hblock⟩ := bodyBlock_eq_ok h
    exact sevenBit_blockBody (sevenBit_sanitize t) hblock
  · obtain ⟨row', spec, size, c, hd', hs, hc, hblock⟩ := bodyLpconn_eq_ok h
    obtain rfl : row = row' := Option.some.inj (hd.symm.trans hd')
    rw [hs] at hraw
    exact sevenBit_blockBody (sevenBit_composeLp hraw hc) hblock

/-- Settles O60, by the bodies of the three pinned rows. -/
theorem pinnedBodiesHaveTheirTableLayout : Obligations.PinnedBodiesHaveTheirTableLayout := by
  intro cfg
  refine ⟨fun v body h => ?lineNumber, fun v body h => ?stopId, fun t body h => ?destText⟩
  case lineNumber =>
    obtain ⟨hv, rfl⟩ := encodeBody_lineNumber h
    refine ⟨BitVec.ofNat 4 (v / 100), BitVec.ofNat 4 (v / 10 % 10), BitVec.ofNat 4 (v % 10), ?layout, ?value⟩
    case layout =>
      rw [decimalChars_three hv]
      simp only [buildWire, charDigit_digitChar (v / 100) (by omega), charDigit_digitChar (v / 10 % 10) (by omega),
        charDigit_digitChar (v % 10) (by omega), if_true]
    case value =>
      rw [toNat_ofNat_four (by omega), toNat_ofNat_four (by omega), toNat_ofNat_four (by omega)]
      omega
  case stopId =>
    obtain ⟨hv, rfl⟩ := encodeBody_lpNextStopId h
    refine ⟨BitVec.ofNat 4 (v / 16), BitVec.ofNat 4 v, ?layout, ?value⟩
    case layout => simp [nibbleChars_succ, buildWire, charNibble_nibbleChar]
    case value =>
      rw [toNat_ofNat_four (by omega), BitVec.toNat_ofNat]
      omega
  case destText =>
    obtain ⟨n, text, rfl, hlen, hseven⟩ := encodeBody_destText h
    refine ⟨n, ?header, ?length, hseven⟩
    case header => simp [buildWire, charNibble_nibbleChar]
    case length =>
      simp only [List.length_cons, hlen]
      omega

end Sys2Proof.Machine
end

section
/-! PROOF. The order of the encoders' checks (spec/43_body_encoder.md R133, spec/60_exceptions.md R177 to R181): each
clause is one equation of the encoder's body, which ends in fault entry. -/

namespace Sys2Proof.Machine

/-- A laid-out `FIXED` body that the buffer does not hold (R126, R177). -/
theorem bodyFixed_full {cfg : Config} {ds : DsId} {params : List Operand} {row : Row} {fs : List FieldSpec} {bs : Bytes}
    {k : Nat} (hd : dsRow cfg ds = some row) (hs : row.shape = .fixed fs) (hl : params.length = fs.length)
    (h : layFields fs params = .ok bs) (hc : cfg.bufCap = some k) (hk : k < row.pre.length + bs.length) :
    bodyFixed cfg ds params = .error (.capacityFault .buf) := by
  rw [bodyFixed_laid hd hs hl h, capBody_full hc (by rwa [List.length_append, length_prefixBytes])]

/-- A laid-out `LSA` body that the buffer does not hold (R132, R177). -/
theorem bodyLsa_full {cfg : Config} {ds : DsId} {params : List Operand} {row : Row} {fs : List FieldSpec} {bs : Bytes}
    {k : Nat} (hd : dsRow cfg ds = some row) (hs : row.shape = .lsa fs) (hl : params.length = fs.length)
    (h : layFields fs params = .ok bs) (hshort : bs.length ≤ 30) (hc : cfg.bufCap = some k)
    (hk : k < row.pre.length + 1 + bs.length) : bodyLsa cfg ds params = .error (.capacityFault .buf) := by
  rw [bodyLsa_laid hd hs hl h hshort, capBody_full hc]
  simpa only [List.length_append, length_prefixBytes, List.length_singleton] using hk

/-- A stop id that does not fit is reported before everything the composition does, a wrong type as operand 1 of the
operation (R133, log entries 8 and 12). -/
theorem settleFor_atOperand_one (cfg : Config) (r : Request) (c : Cause) :
    settleFor cfg r (atOperand 1 c) =
      if c = .paramFault none none then .paramFault (some 1) none else settleFor cfg r c := by
  unfold atOperand
  split
  · rfl
  · next hne => rw [if_neg hne]


/-! ### The statements -/

/-- Settles O34, clause by clause: each is the equation of the encoder's body for the first check that fails. -/
theorem encodersReportTheFirstFault : Obligations.EncodersReportTheFirstFault := by
  refine ⟨?fieldList, ?block, ?lpconn⟩
  case fieldList =>
    rintro s ds params i (rfl | rfl)
    · have hi := exec_encFixed ds params s
      refine ⟨fun hd => exec_body_error hi (bodyFixed_unknown hd params), fun row hd =>
        ⟨?fixedMismatch, ?fixedField, ?fixedFull⟩⟩
      case fixedMismatch =>
        intro h _
        exact exec_body_error hi (bodyFixed_mismatch hd fun fs hs => (h fs hs).resolve_left nofun)
      case fixedField =>
        rintro fs₁ fs₂ f xs₁ xs₂ x c (⟨hs, -⟩ | ⟨-, hne⟩) rfl hl₁ hl₂ hok hx
        · exact exec_body_error hi (bodyFixed_error hd hs (by simp [hl₁, hl₂]) (layFields_error hl₁ hok hx))
        · cases hne
      case fixedFull =>
        rintro fs pieces k hl hp hc (⟨hs, -, hk⟩ | ⟨-, hne, -⟩)
        · exact exec_body_error hi (bodyFixed_full hd hs hl (layFields_ok hl hp) hc hk)
        · cases hne
    · have hi := exec_encLsa ds params s
      refine ⟨fun hd => exec_body_error hi (bodyLsa_unknown hd params), fun row hd =>
        ⟨?lsaMismatch, ?lsaField, ?lsaFull⟩⟩
      case lsaMismatch =>
        intro _ h
        exact exec_body_error hi (bodyLsa_mismatch hd fun fs hs => (h fs hs).resolve_left nofun)
      case lsaField =>
        rintro fs₁ fs₂ f xs₁ xs₂ x c (⟨-, hne⟩ | ⟨hs, -⟩) rfl hl₁ hl₂ hok hx
        · cases hne
        · exact exec_body_error hi (bodyLsa_error hd hs (by simp [hl₁, hl₂]) (layFields_error hl₁ hok hx))
      case lsaFull =>
        rintro fs pieces k hl hp hc (⟨-, hne, -⟩ | ⟨hs, -, hshort, hk⟩)
        · cases hne
        · exact exec_body_error hi (bodyLsa_full hd hs hl (layFields_ok hl hp) hshort hc hk)
  case block =>
    intro s ds text
    have hi := exec_encBlock ds text s
    refine ⟨fun hd => exec_body_error hi (bodyBlock_unknown hd text), fun row hd => ⟨fun h => ?_, ?blockFull⟩⟩
    · exact exec_body_error hi (bodyBlock_mismatch hd h text)
    case blockFull =>
      intro size n k hs hlo hhi hn hc hk
      have hbody := bodyBlock_row hd hs text
      rw [cdiv_eq_of_bounds hlo hhi, blockBody_full hn (by rwa [sanitize_length]) hc hk] at hbody
      exact exec_body_error hi hbody
  case lpconn =>
    rintro s ds stopId stopText changeText _ rfl
    have hi := exec_encLpconn ds stopId stopText changeText s
    refine ⟨fun hd => exec_body_error hi (bodyLpconn_unknown hd ..), fun row hd => ⟨fun h => ?_, ?stopId, ?lpconnFull⟩⟩
    · exact exec_body_error hi (bodyLpconn_mismatch hd h ..)
    case stopId =>
      intro spec size c hs hc
      rw [← settleFor_atOperand_one]
      exact exec_body_error hi (bodyLpconn_error hd hs (composeLp_stopId_error hc ..))
    case lpconnFull =>
      intro spec size c n k hs hcomp hlo hhi hn hc hk
      have hbody := bodyLpconn_composed hd hs hcomp
      rw [divmodCount_eq_of_bounds hlo hhi, blockBody_full hn hlo hc hk] at hbody
      exact exec_body_error hi hbody

end Sys2Proof.Machine
end

section
/-! PROOF. `DEC.REPLY` (spec/44_reply_decoder.md R149 to R153). The decode has one equation per check; the fields of a
whole reply are folded into the map in list order, and a fault of a field names a byte or a length of the payload, never
an operand, so it is recorded as it is. -/

namespace Sys2Proof.Machine

/-! ### The checks before the fields -/

theorem exec_decReply (ds : DsId) (r : Option Bytes) (s : State) :
    exec (.decReply ds r) s = .next (finishReply (.decReply ds r) false (decodeReply ds r s)) := rfl

theorem decodeReply_unknown {ds : DsId} {s : State} (h : dsRow s.cfg ds = none) (r : Option Bytes) :
    decodeReply ds r s = (s, .error (.unknownDs ds)) := by
  simp only [decodeReply, h]

theorem decodeReply_sendOnly {ds : DsId} {s : State} {row : Row} (hd : dsRow s.cfg ds = some row)
    (hr : row.reply = none) (r : Option Bytes) : decodeReply ds r s = (s, paramFault) := by
  simp only [decodeReply, hd, hr]

theorem decodeReply_none {ds : DsId} {s : State} {row : Row} {rp : ReplySpec} (hd : dsRow s.cfg ds = some row)
    (hr : row.reply = some rp) : decodeReply ds none s = (s, .ok .noReply) := by
  simp only [decodeReply, hd, hr]

theorem decodeReply_long {ds : DsId} {s : State} {row : Row} {rp : ReplySpec} {bs : Bytes}
    (hd : dsRow s.cfg ds = some row) (hr : row.reply = some rp) (hl : rp.rlen < bs.length) :
    decodeReply ds (some bs) s = (s, .error (.paramFault (some 1) none)) := by
  simp only [decodeReply, hd, hr, if_pos hl]

theorem decodeReply_full {ds : DsId} {s : State} {row : Row} {rp : ReplySpec} {bs : Bytes}
    (hd : dsRow s.cfg ds = some row) (hr : row.reply = some rp) (hl : bs.length ≤ rp.rlen)
    (hf : fits s.cfg.rbufCap bs.length = false) :
    decodeReply ds (some bs) s = (s, .error (.capacityFault .rbuf)) := by
  simp only [decodeReply, hd, hr, if_neg (Nat.not_lt.mpr hl), hf, Bool.false_eq_true, if_false]

/-! ### One field -/

/-- What `decw`'s fold can fault with (R84). -/
theorem decwFrom_error {cs : Bytes} {v : BitVec 32} {c : Cause} (h : decwFrom cs v = .error c) :
    ∃ b, c = .invalidSymbol b := by
  induction cs generalizing v with
  | nil => cases h
  | cons b cs ih =>
    rw [decwFrom] at h
    split at h
    · exact ih h
    · next f hf =>
      cases h
      by_cases hb : b.extractLsb' 4 4 = 0x3#4
      · rw [dec_ok hb] at hf
        cases hf
      · rw [dec_error hb] at hf
        exact ⟨b, (Except.error.inj hf).symm⟩

/-- What `decw` can fault with (R84). -/
theorem decw_error {cs : Bytes} {c : Cause} (h : decw cs = .error c) :
    (∃ b, c = .invalidSymbol b) ∨ (cs.length < 1 ∨ 8 < cs.length) ∧ c = .paramFault (some 0) (some cs.length) := by
  unfold decw at h
  split at h
  · next hlen =>
    cases h
    exact .inr ⟨hlen, rfl⟩
  · exact .inl (decwFrom_error h)

theorem parseDigits_error {b : Bytes} {v : Nat} {c : Cause} (h : parseDigits b v = .error c) :
    ∃ x, c = .parseError .notANumber x := by
  induction b generalizing v with
  | nil => cases h
  | cons d b ih =>
    rw [parseDigits] at h
    split at h
    · cases h
      exact ⟨_, rfl⟩
    · exact ih h

/-- What `parse_int` can fault with (R147). -/
theorem parseInt_error {b : Bytes} {c : Cause} (h : parseInt b = .error c) : ∃ x, c = .parseError .notANumber x := by
  cases b with
  | nil =>
    cases h
    exact ⟨_, rfl⟩
  | cons d b => exact parseDigits_error h

/-- The bytes of a reply's payload that a field covers (R149). -/
def fieldSlice (f : ReplyField) (payload : Bytes) : Bytes := (payload.drop f.offset).take f.width

theorem fieldSlice_length {f : ReplyField} {payload : Bytes} (h : f.offset + f.width ≤ payload.length) :
    (fieldSlice f payload).length = f.width := by
  simp only [fieldSlice, List.length_take, List.length_drop]
  omega

theorem decField_status {cfg : Config} {f : ReplyField} {payload : Bytes} (hk : f.kind = .status) :
    decField cfg f payload = .ok (.statusV (statusOf cfg ((fieldSlice f payload).headD 0))) := by
  simp only [decField, hk, fieldSlice]

theorem decField_raw {cfg : Config} {f : ReplyField} {payload : Bytes} (hk : f.kind = .raw) :
    decField cfg f payload = .ok (.str (fieldSlice f payload)) := by
  simp only [decField, hk, fieldSlice]

theorem decField_int {cfg : Config} {f : ReplyField} {payload : Bytes} (hk : f.kind = .int) :
    decField cfg f payload = (parseInt (fieldSlice f payload)).map .num := by
  simp only [decField, hk, fieldSlice]

theorem decField_nibble {cfg : Config} {f : ReplyField} {payload : Bytes} (hk : f.kind = .nibble) :
    decField cfg f payload = (unindexed (decw (fieldSlice f payload))).map .num := by
  simp only [decField, hk, fieldSlice]

theorem map_eq_error {α β : Type} {g : α → β} {r : Except Cause α} {c : Cause} (h : r.map g = .error c) :
    r = .error c := by
  cases r with
  | ok v => cases h
  | error d => exact congrArg Except.error (Except.error.inj h)

/-- What a field can fault with: a byte that does not decode, or a width that is no width of its kind (R149). -/
theorem decField_error {cfg : Config} {f : ReplyField} {payload : Bytes} {c : Cause}
    (h : decField cfg f payload = .error c) :
    (∃ b, c = .invalidSymbol b) ∨ (∃ x, c = .parseError .notANumber x) ∨
      f.kind = .nibble ∧ ((fieldSlice f payload).length < 1 ∨ 8 < (fieldSlice f payload).length) ∧
        ∃ x, c = .paramFault none x := by
  cases hk : f.kind with
  | status =>
    rw [decField_status hk] at h
    cases h
  | raw =>
    rw [decField_raw hk] at h
    cases h
  | int =>
    rw [decField_int hk] at h
    exact .inr (.inl (parseInt_error (map_eq_error h)))
  | nibble =>
    rw [decField_nibble hk] at h
    have hu := map_eq_error h
    cases hw : decw (fieldSlice f payload) with
    | ok n =>
      rw [hw] at hu
      cases hu
    | error d =>
      rw [hw] at hu
      obtain ⟨b, rfl⟩ | ⟨hlen, rfl⟩ := decw_error hw
      · exact .inl ⟨b, (Except.error.inj hu).symm⟩
      · exact .inr (.inr ⟨rfl, hlen, _, (Except.error.inj hu).symm⟩)

/-- A field of a row has its width in the payload, so its fault is one of a byte or a length (R70, R149). -/
theorem decField_error_of_row {cfg : Config} {ds : DsId} {row : Row} {rp : ReplySpec} {f : ReplyField} {payload : Bytes}
    {c : Cause} (hd : dsRow cfg ds = some row) (hr : row.reply = some rp) (hf : f ∈ rp.rfields)
    (hp : payload.length = rp.rlen - 2) (h : decField cfg f payload = .error c) :
    (∃ b, c = .invalidSymbol b) ∨ ∃ x, c = .parseError .notANumber x := by
  obtain ⟨hwithin, -, hnibble⟩ := replyField_ok hd hr hf
  obtain hb | hx | ⟨hk, hlen, -⟩ := decField_error h
  · exact .inl hb
  · exact .inr hx
  · obtain ⟨hw1, hw8⟩ := hnibble hk
    rw [fieldSlice_length (by omega)] at hlen
    omega

/-! ### All fields -/

/-- A map after one value per field, in list order (R152). -/
def setFields (m : List (FieldName × Value)) (fvs : List (ReplyField × Value)) : List (FieldName × Value) :=
  fvs.foldl (fun m fv => setField fv.1.name fv.2 m) m

/-- The last value of a name is the one in the map (R152, log entry 14). -/
theorem setFields_lookup (m : List (FieldName × Value)) (fvs : List (ReplyField × Value)) (name : FieldName) :
    (setFields m fvs).lookup name =
      ((fvs.reverse.find? fun fv => fv.1.name = name).map fun fv => fv.2).or (m.lookup name) := by
  induction fvs generalizing m with
  | nil => rfl
  | cons fv fvs ih =>
    have hcons : setFields m (fv :: fvs) = setFields (setField fv.1.name fv.2 m) fvs := rfl
    rw [hcons, ih, setField_lookup, List.reverse_cons, List.find?_append]
    cases fvs.reverse.find? fun fv => fv.1.name = name with
    | some gv => rfl
    | none => by_cases hn : fv.1.name = name <;> simp [hn]

/-- The fields of a reply that all decode (R152). -/
theorem decFields_ok {cfg : Config} {fs : List ReplyField} {payload : Bytes} {vs : List Value}
    (h : List.Forall₂ (fun f v => decField cfg f payload = .ok v) fs vs) (m : List (FieldName × Value)) :
    decFields cfg fs payload m = .ok (.fields (setFields m (fs.zip vs))) := by
  induction h generalizing m with
  | nil => rfl
  | cons hf _ ih => simp only [decFields, hf, ih, List.zip_cons_cons, setFields, List.foldl_cons]

/-- The first field that does not decode is the fault of a reply (R152). -/
theorem decFields_error {cfg : Config} {fs₁ fs₂ : List ReplyField} {f : ReplyField} {payload : Bytes} {c : Cause}
    (hok : ∀ g ∈ fs₁, ∃ v, decField cfg g payload = .ok v) (hf : decField cfg f payload = .error c)
    (m : List (FieldName × Value)) : decFields cfg (fs₁ ++ f :: fs₂) payload m = .error c := by
  induction fs₁ generalizing m with
  | nil => simp only [List.nil_append, decFields, hf]
  | cons g fs₁ ih =>
    obtain ⟨⟨v, hv⟩, hrest⟩ := List.forall_mem_cons.mp hok
    simp only [List.cons_append, decFields, hv, ih hrest]

/-- A fault of a reply is the fault of one of its fields (R152). -/
theorem decFields_eq_error {cfg : Config} {fs : List ReplyField} {payload : Bytes} {m : List (FieldName × Value)}
    {c : Cause} (h : decFields cfg fs payload m = .error c) : ∃ f ∈ fs, decField cfg f payload = .error c := by
  induction fs generalizing m with
  | nil => cases h
  | cons f fs ih =>
    rw [decFields] at h
    split at h
    · next d hd =>
      cases h
      exact ⟨f, by simp, hd⟩
    · obtain ⟨g, hg, hc⟩ := ih h
      exact ⟨g, by simp [hg], hc⟩

/-- The fault of a reply's fields is recorded as it is (R152, R170). -/
theorem settleFor_decFields {cfg : Config} {ds : DsId} {row : Row} {rp : ReplySpec} {payload : Bytes} {c : Cause}
    {m : List (FieldName × Value)} (hd : dsRow cfg ds = some row) (hr : row.reply = some rp)
    (hp : payload.length = rp.rlen - 2) (h : decFields cfg rp.rfields payload m = .error c) (r : Request) :
    settleFor cfg r c = c := by
  obtain ⟨f, hf, hc⟩ := decFields_eq_error h
  obtain ⟨b, rfl⟩ | ⟨x, rfl⟩ := decField_error_of_row hd hr hf hp hc <;> rfl

/-! ### Whole replies -/

section Whole

variable {ds : DsId} {s : State} {row : Row} {rp : ReplySpec} {bs : Bytes}

theorem payload_length (hl : bs.length = rp.rlen) : (bs.take (rp.rlen - 2)).length = rp.rlen - 2 := by
  rw [List.length_take]
  omega

/-- `DEC.REPLY` of a whole reply whose fields decode (R152). -/
theorem exec_decReply_ok {v : ReplyResult} (hw : Memory.wf s.rbuf) (hd : dsRow s.cfg ds = some row)
    (hr : row.reply = some rp) (hl : bs.length = rp.rlen) (hf : fits s.cfg.rbufCap bs.length = true)
    (h : decFields s.cfg rp.rfields (bs.take (rp.rlen - 2)) [] = .ok v) :
    exec (.decReply ds (some bs)) s = .next { s with
      rbuf := memWriteN s.rbuf 0 bs, rlen := 0, responses := s.responses ++ [.ok (.reply v)] } := by
  rw [exec_decReply, decodeReply_whole hw hd hr hl hf, h, finishReply_ok]

/-- `DEC.REPLY` of a whole reply with a field that does not decode (R152). -/
theorem exec_decReply_error {c : Cause} (hw : Memory.wf s.rbuf) (hd : dsRow s.cfg ds = some row)
    (hr : row.reply = some rp) (hl : bs.length = rp.rlen) (hf : fits s.cfg.rbufCap bs.length = true)
    (h : decFields s.cfg rp.rfields (bs.take (rp.rlen - 2)) [] = .error c) :
    exec (.decReply ds (some bs)) s = .next { s with
      rbuf := memWriteN s.rbuf 0 bs, blen := 0, rlen := 0, responses := s.responses ++ [.fault c] } := by
  rw [exec_decReply, decodeReply_whole hw hd hr hl hf, h, finishReply_error,
    settleFor_decFields hd hr (payload_length hl) h]
  rfl

/-- `DEC.REPLY` of a reply that does not fit the reply buffer (R177). -/
theorem exec_decReply_full (hd : dsRow s.cfg ds = some row) (hr : row.reply = some rp) (hl : bs.length ≤ rp.rlen)
    (hf : fits s.cfg.rbufCap bs.length = false) :
    exec (.decReply ds (some bs)) s = .next { s with
      blen := 0, rlen := 0, responses := s.responses ++ [.fault (.capacityFault .rbuf)] } := by
  rw [exec_decReply, decodeReply_full hd hr hl hf]
  rfl

end Whole

/-! ### A field and the operation of its kind -/

/-- A status field is what `DEC.STATUS` answers for its one byte (R149). -/
theorem decField_status_eq {cfg : Config} {f : ReplyField} {payload : Bytes} (hk : f.kind = .status)
    (hl : (fieldSlice f payload).length = 1) :
    ∃ c, fieldSlice f payload = [c] ∧ decField cfg f payload = .ok (.statusV (statusOf cfg c)) := by
  obtain ⟨c, hc⟩ := List.length_eq_one_iff.mp hl
  exact ⟨c, hc, by rw [decField_status hk, hc]; rfl⟩

theorem exec_decVerint_of_int {s : State} {f : ReplyField} {payload : Bytes} {v : Value} (hk : f.kind = .int)
    (h : decField s.cfg f payload = .ok v) :
    (∃ n, v = .num n) ∧ exec (.decVerint (fieldSlice f payload)) s =
      .next { s with responses := s.responses ++ [.ok (.value v)] } := by
  rw [decField_int hk] at h
  rw [exec_decVerint]
  cases hp : parseInt (fieldSlice f payload) with
  | error c =>
    rw [hp] at h
    cases h
  | ok n =>
    rw [hp] at h
    cases h
    exact ⟨⟨n, rfl⟩, rfl⟩

theorem exec_decVerint_of_int_error {s : State} {f : ReplyField} {payload : Bytes} {c : Cause} (hk : f.kind = .int)
    (h : decField s.cfg f payload = .error c) :
    exec (.decVerint (fieldSlice f payload)) s =
      .next { s with blen := 0, rlen := 0, responses := s.responses ++ [.fault c] } := by
  rw [decField_int hk] at h
  rw [exec_decVerint, map_eq_error h]
  rfl

theorem exec_vdvDecw_of_nibble {s : State} {f : ReplyField} {payload : Bytes} {v : Value} (hk : f.kind = .nibble)
    (h : decField s.cfg f payload = .ok v) :
    ∃ n, v = .num n ∧ exec (.vdvDecw (fieldSlice f payload)) s =
      .next { s with responses := s.responses ++ [.ok (.nat n)] } := by
  rw [decField_nibble hk] at h
  rw [exec_vdvDecw]
  cases hu : unindexed (decw (fieldSlice f payload)) with
  | error c =>
    rw [hu] at h
    cases h
  | ok n =>
    rw [hu] at h
    cases h
    exact ⟨n, rfl, by rw [unindexed_ok hu]; rfl⟩

theorem exec_vdvDecw_of_nibble_error {s : State} {f : ReplyField} {payload : Bytes} {c : Cause} (hk : f.kind = .nibble)
    (h1 : 1 ≤ (fieldSlice f payload).length) (h8 : (fieldSlice f payload).length ≤ 8)
    (h : decField s.cfg f payload = .error c) :
    exec (.vdvDecw (fieldSlice f payload)) s =
      .next { s with blen := 0, rlen := 0, responses := s.responses ++ [.fault c] } := by
  rw [decField_nibble hk] at h
  have hu := map_eq_error h
  rw [exec_vdvDecw]
  cases hw : decw (fieldSlice f payload) with
  | ok n =>
    rw [hw] at hu
    cases hu
  | error d =>
    obtain ⟨b, rfl⟩ | ⟨hlen, -⟩ := decw_error hw
    · rw [hw] at hu
      cases hu
      rfl
    · omega

/-! ### The statements -/

/-- Settles O41, by the checks of the decode in their order. -/
theorem decReplyWithoutAWholeReply : Obligations.DecReplyWithoutAWholeReply := by
  intro ds s
  refine ⟨fun r hd => ?unknown, fun r row hd hr => ?sendOnly, fun row rp hd hr =>
    ⟨?absent, fun bs hw hl hcap => ?short, fun bs hl => ?long, fun bs k hl hc hk => ?full⟩⟩
  case unknown => rw [exec_decReply, decodeReply_unknown hd]; rfl
  case sendOnly => rw [exec_decReply, decodeReply_sendOnly hd hr]; rfl
  case absent => rw [exec_decReply, decodeReply_none hd hr]; rfl
  case short =>
    rw [exec_decReply, decodeReply_short hd hr hl (fits_of_le hcap), finishReply_ok]
    exact ⟨_, rfl, rfl, memRead_memWriteN_zero hw bs⟩
  case long => rw [exec_decReply, decodeReply_long hd hr hl]; rfl
  case full => exact exec_decReply_full hd hr hl (fits_of_lt hc hk)

/-- Settles O42: each field by the operation of its kind, the map by the fold that sets one value after the other. -/
theorem decReplyAnswersEveryFieldOrTheFirstFault : Obligations.DecReplyAnswersEveryFieldOrTheFirstFault := by
  intro ds s row rp bs hw hd hr hl hcap
  have hfits := fits_of_le hcap
  refine ⟨?field, fun vs hvs => ?fields, fun fs₁ fs₂ f c hfs hok hc => ?fault⟩
  case field =>
    rintro f hf _ rfl
    obtain ⟨hwithin, hstatus, hnibble⟩ := replyField_ok hd hr hf
    have hlen : (fieldSlice f (bs.take (rp.rlen - 2))).length = f.width :=
      fieldSlice_length (by rwa [payload_length hl])
    refine ⟨hlen, ?_⟩
    split
    case h_1 hk =>
      obtain ⟨c, hslice, hv⟩ := decField_status_eq (cfg := s.cfg) hk (hlen.trans (hstatus hk))
      exact ⟨c, _, hslice, hv, rfl⟩
    case h_2 hk => exact ⟨decField_raw hk, rfl⟩
    case h_3 v hk hv => exact exec_decVerint_of_int hk hv
    case h_4 c hk hc => exact exec_decVerint_of_int_error hk hc
    case h_5 v hk hv => exact exec_vdvDecw_of_nibble hk hv
    case h_6 c hk hc =>
      obtain ⟨hw1, hw8⟩ := hnibble hk
      exact exec_vdvDecw_of_nibble_error hk (hlen ▸ hw1) (hlen ▸ hw8) hc
  case fields =>
    refine ⟨_, _, exec_decReply_ok hw hd hr hl hfits (decFields_ok hvs []), rfl, memRead_memWriteN_zero hw bs, ?_⟩
    intro name
    rw [setFields_lookup, List.lookup_nil, Option.or_none]
  case fault =>
    have herror : decFields s.cfg rp.rfields (bs.take (rp.rlen - 2)) [] = .error c := hfs ▸ decFields_error hok hc []
    exact ⟨_, exec_decReply_error hw hd hr hl hfits herror, rfl, memRead_memWriteN_zero hw bs⟩

/-- Settles O43: of a whole reply only the payload is read, and a fault of it is recorded as it is. -/
theorem replyTrailerIsNotLookedAt : Obligations.ReplyTrailerIsNotLookedAt := by
  intro ds s a b row rp payload t c t' c' hw hd hr hl ha hb
  have hlen (x y : Byte) : (payload ++ [x, y]).length = rp.rlen := by simpa using hl
  have htake (x y : Byte) : (payload ++ [x, y]).take (rp.rlen - 2) = payload := List.take_left' (by omega)
  cases hf : fits s.cfg.rbufCap rp.rlen with
  | false =>
    have hanswer (x y : Byte) := exec_decReply_full hd hr (hlen x y).le ((hlen x y).symm ▸ hf)
    rw [hanswer] at ha hb
    cases ha
    cases hb
    rfl
  | true =>
    cases hres : decFields s.cfg rp.rfields payload [] with
    | ok v =>
      have hanswer (x y : Byte) := exec_decReply_ok hw hd hr (hlen x y) ((hlen x y).symm ▸ hf)
        ((htake x y).symm ▸ hres)
      rw [hanswer] at ha hb
      cases ha
      cases hb
      rfl
    | error f =>
      have hanswer (x y : Byte) := exec_decReply_error hw hd hr (hlen x y) ((hlen x y).symm ▸ hf)
        ((htake x y).symm ▸ hres)
      rw [hanswer] at ha hb
      cases ha
      cases hb
      rfl

end Sys2Proof.Machine
end

section
/-! PROOF. The transfers (spec/45_session.md R162 to R166). What a transfer has done to the state when it reads
TRANSPORT's answer is one update, `afterSend`, and one more, `afterReceive`, after the receive of a query; each course
of a transfer is an equation that ends in one of these states. -/

namespace Sys2Proof.Machine

/-! ### The states in which TRANSPORT's answers are read -/

/-- The state after the transmit path handed over `telegram` for `body` (R109, R162). -/
def afterSend (body telegram : Bytes) (s : State) : State :=
  { s with
    buf := memWriteN s.buf 0 body
    blen := 0
    ck := 0x7F
    out := s.out ++ [telegram]
    sendAnswers := s.sendAnswers.tail
    drawn := if s.sendAnswers.isEmpty then s.drawn + 1 else s.drawn }

/-- The state after TRANSPORT's answer to a `receive` was taken (R161). -/
def afterReceive (s : State) : State :=
  { s with
    recvAnswers := s.recvAnswers.tail
    drawn := if s.recvAnswers.isEmpty then s.drawn + 1 else s.drawn }

/-- The telegram that a transfer hands over (R60, R101). -/
def telegram (body : Bytes) (s : State) : Bytes := framed (fold body s)

theorem telegram_eq {body : Bytes} {s : State} (h : Memory.wf s.buf) : telegram body s = frameOf body := framed_fold h

theorem transmit_eq_afterSend (body : Bytes) (s : State) :
    transmit body s = (afterSend body (telegram body s) s, nextSend s) := by
  simp only [transmit, send_eq]
  rfl

/-- The receive of a query takes the answer that follows the send (R164). -/
theorem receive_afterSend (n : Nat) (body tg : Bytes) (s : State) :
    receive n (afterSend body tg s) = (afterReceive (afterSend body tg s), clipAnswer n (nextRecv s)) := by
  rw [receive_eq]
  rfl

/-! ### Sending -/

theorem sendBody_of_success {s : State} (h : nextSend s = .success) (body : Bytes) :
    sendBody body s = respond .unit (afterSend body (telegram body s) s) := by
  simp only [sendBody, transmit_eq_afterSend, h]

theorem sendBody_of_ioError {s : State} (h : nextSend s = .ioError) (body : Bytes) :
    sendBody body s = raise true (.transportError .send) (afterSend body (telegram body s) s) := by
  simp only [sendBody, transmit_eq_afterSend, h]

/-- All that sending a body does, with either answer of TRANSPORT (R162, R163). -/
theorem sendBody_spec (body : Bytes) {s : State} (hw : Memory.wf s.buf) :
    ∃ t, sendBody body s = t ∧
      t = { s with
        ck := 0x7F, buf := t.buf, blen := 0, rlen := t.rlen, out := s.out ++ [frameOf body]
        sendAnswers := s.sendAnswers.tail
        drawn := if s.sendAnswers = [] then s.drawn + 1 else s.drawn
        responses := t.responses } ∧
      BodyStored body s t ∧
      (nextSend s = .success → t.rlen = s.rlen ∧ t.responses = s.responses ++ [.ok .unit]) ∧
      (nextSend s = .ioError → t.rlen = 0 ∧ t.responses = s.responses ++ [.fault (.transportError .send)]) := by
  cases ha : nextSend s with
  | success =>
    rw [sendBody_success hw ha]
    simp only [List.isEmpty_iff]
    exact ⟨_, rfl, rfl, bodyStored_of_memWriteN hw rfl rfl, fun _ => ⟨rfl, rfl⟩, nofun⟩
  | ioError =>
    rw [sendBody_ioError hw ha]
    simp only [List.isEmpty_iff]
    exact ⟨_, rfl, rfl, bodyStored_of_memWriteN hw rfl rfl, nofun, fun _ => ⟨rfl, rfl⟩⟩

/-! ### The courses of the operations -/

section Courses

variable {ds : DsId} {params : List Operand} {s : State}

theorem exec_xferSend : exec (.xferSend ds params) s = execXferSend ds params s := rfl

theorem exec_xferSendraw (body : Bytes) : exec (.xferSendraw body) s = execXferSendraw body s := rfl

theorem exec_xferQuery : exec (.xferQuery ds params) s = execXferQuery ds params s := rfl

theorem exec_xferSend_unknown (hp : s.ph = .idle) (hd : dsRow s.cfg ds = none) :
    exec (.xferSend ds params) s = .next (raise false (.unknownDs ds) s) := by
  simp only [exec_xferSend, execXferSend, whenIdle_idle hp, hd]

theorem exec_xferQuery_unknown (hp : s.ph = .idle) (hd : dsRow s.cfg ds = none) :
    exec (.xferQuery ds params) s = .next (raise false (.unknownDs ds) s) := by
  simp only [exec_xferQuery, execXferQuery, whenIdle_idle hp, hd]

variable {row : Row} {rp : ReplySpec} {body : Bytes}

theorem exec_xferSend_reply (hp : s.ph = .idle) (hd : dsRow s.cfg ds = some row) (hr : row.reply = some rp) :
    exec (.xferSend ds params) s = .next (raiseFor (.xferSend ds params) false (.paramFault none none) s) := by
  simp only [exec_xferSend, execXferSend, whenIdle_idle hp, hd, hr]

theorem exec_xferSend_error {c : Cause} (hp : s.ph = .idle) (hd : dsRow s.cfg ds = some row) (hr : row.reply = none)
    (he : encodeBody s.cfg ds params = .error c) :
    exec (.xferSend ds params) s = .next (raiseFor (.xferSend ds params) false c s) := by
  simp only [exec_xferSend, execXferSend, whenIdle_idle hp, hd, hr, he]

theorem exec_xferSend_sent (hp : s.ph = .idle) (hd : dsRow s.cfg ds = some row) (hr : row.reply = none)
    (he : encodeBody s.cfg ds params = .ok body) : exec (.xferSend ds params) s = .next (sendBody body s) := by
  simp only [exec_xferSend, execXferSend, whenIdle_idle hp, hd, hr, he]

theorem exec_xferSendraw_full (hp : s.ph = .idle) (hf : fits s.cfg.bufCap body.length = false) :
    exec (.xferSendraw body) s = .next (raise false (.capacityFault .buf) s) := by
  simp only [exec_xferSendraw, execXferSendraw, whenIdle_idle hp, hf, Bool.false_eq_true, if_false]

theorem exec_xferSendraw_sent (hp : s.ph = .idle) (hf : fits s.cfg.bufCap body.length = true) :
    exec (.xferSendraw body) s = .next (sendBody body s) := by
  simp only [exec_xferSendraw, execXferSendraw, whenIdle_idle hp, hf, if_true]

theorem exec_xferQuery_sendOnly (hp : s.ph = .idle) (hd : dsRow s.cfg ds = some row) (hr : row.reply = none) :
    exec (.xferQuery ds params) s = .next (raiseFor (.xferQuery ds params) false (.paramFault none none) s) := by
  simp only [exec_xferQuery, execXferQuery, whenIdle_idle hp, hd, hr]

theorem exec_xferQuery_full (hp : s.ph = .idle) (hd : dsRow s.cfg ds = some row) (hr : row.reply = some rp)
    (hf : fits s.cfg.rbufCap rp.rlen = false) :
    exec (.xferQuery ds params) s = .next (raise false (.capacityFault .rbuf) s) := by
  simp only [exec_xferQuery, execXferQuery, whenIdle_idle hp, hd, hr, hf, Bool.false_eq_true, if_false]

theorem exec_xferQuery_error {c : Cause} (hp : s.ph = .idle) (hd : dsRow s.cfg ds = some row)
    (hr : row.reply = some rp) (hf : fits s.cfg.rbufCap rp.rlen = true) (he : encodeBody s.cfg ds params = .error c) :
    exec (.xferQuery ds params) s = .next (raiseFor (.xferQuery ds params) false c s) := by
  simp only [exec_xferQuery, execXferQuery, whenIdle_idle hp, hd, hr, hf, if_true, he]

theorem exec_xferQuery_sendFailed (hp : s.ph = .idle) (hd : dsRow s.cfg ds = some row) (hr : row.reply = some rp)
    (hf : fits s.cfg.rbufCap rp.rlen = true) (he : encodeBody s.cfg ds params = .ok body) (ha : nextSend s = .ioError) :
    exec (.xferQuery ds params) s =
      .next (raise true (.transportError .send) (afterSend body (telegram body s) s)) := by
  simp only [exec_xferQuery, execXferQuery, whenIdle_idle hp, hd, hr, hf, if_true, he, transmit_eq_afterSend, ha]

theorem exec_xferQuery_sent (hp : s.ph = .idle) (hd : dsRow s.cfg ds = some row) (hr : row.reply = some rp)
    (hf : fits s.cfg.rbufCap rp.rlen = true) (he : encodeBody s.cfg ds params = .ok body) (ha : nextSend s = .success) :
    exec (.xferQuery ds params) s =
      .next (receiveReply (.xferQuery ds params) ds rp.rlen (afterSend body (telegram body s) s)) := by
  simp only [exec_xferQuery, execXferQuery, whenIdle_idle hp, hd, hr, hf, if_true, he, transmit_eq_afterSend, ha]

end Courses

/-! ### Receiving -/

section Receiving

variable {i : Instr} {ds : DsId} {n : Nat} {body tg : Bytes} {s : State}

theorem receiveReply_of_ioError (h : nextRecv s = .ioError) :
    receiveReply i ds n (afterSend body tg s) =
      raise true (.transportError .receive) (afterReceive (afterSend body tg s)) := by
  simp only [receiveReply, receive_afterSend, h, clipAnswer]

theorem receiveReply_of_timeout (h : nextRecv s = .timeout) :
    receiveReply i ds n (afterSend body tg s) = respond (.reply .noReply) (afterReceive (afterSend body tg s)) := by
  simp only [receiveReply, receive_afterSend, h, clipAnswer]

theorem receiveReply_of_bytes {bs : Bytes} (h : nextRecv s = .bytes bs) :
    receiveReply i ds n (afterSend body tg s) =
      finishReply i true (decodeReply ds (some (bs.take n)) (afterReceive (afterSend body tg s))) := by
  simp only [receiveReply, receive_afterSend, h, clipAnswer]

end Receiving

/-- A capacity that holds some number of bytes holds fewer. -/
theorem fits_mono {cap : Option Nat} {n m : Nat} (h : fits cap m = true) (hn : n ≤ m) : fits cap n = true := by
  cases cap with
  | none => rfl
  | some k =>
    simp only [fits, decide_eq_true_eq] at h ⊢
    omega

/-- The end of a transaction with a given response: `respond`, or fault entry (R73, R178). -/
def conclude (folded : Bool) : Response → State → State
  | .ok r, s => respond r s
  | .fault c, s => raise folded c s

@[simp] theorem conclude_responses (folded : Bool) (r : Response) (s : State) :
    (conclude folded r s).responses = s.responses ++ [r] := by
  cases r <;> rfl

/-- After a transfer the lengths and `CK` are quiescent, so its end gives a response and nothing else (R178). -/
theorem conclude_of_quiescent {r : Response} {s : State} (hb : s.blen = 0) (hl : s.rlen = 0) (hck : s.ck = seed) :
    conclude true r s = { s with responses := s.responses ++ [r] } := by
  cases r with
  | ok r => rfl
  | fault c => rw [conclude, raise_eq, ← hb, if_pos rfl, ← hck, hb, ← hl]

/-- What `DEC.REPLY` answers for a reply that is not too long (R151, R152). -/
def replyAnswer (cfg : Config) (rp : ReplySpec) (bs : Bytes) : Response :=
  if bs.length < rp.rlen then .ok (.reply .noReply)
  else
    match decFields cfg rp.rfields (bs.take (rp.rlen - 2)) [] with
    | .ok v => .ok (.reply v)
    | .error c => .fault c

theorem replyAnswer_short {cfg : Config} {rp : ReplySpec} {bs : Bytes} (h : bs.length < rp.rlen) :
    replyAnswer cfg rp bs = .ok (.reply .noReply) := if_pos h

/-- A reply that fits is staged and answered, whichever operation asked for it (R152, R164). -/
theorem finishReply_decodeReply {ds : DsId} {i : Instr} {folded : Bool} {s : State} {row : Row} {rp : ReplySpec}
    {bs : Bytes} (hw : Memory.wf s.rbuf) (hd : dsRow s.cfg ds = some row) (hr : row.reply = some rp)
    (hl : bs.length ≤ rp.rlen) (hf : fits s.cfg.rbufCap bs.length = true) :
    finishReply i folded (decodeReply ds (some bs) s) =
      conclude folded (replyAnswer s.cfg rp bs) { s with rbuf := memWriteN s.rbuf 0 bs, rlen := 0 } := by
  obtain hshort | hwhole := Nat.lt_or_eq_of_le hl
  · rw [decodeReply_short hd hr hshort hf, replyAnswer_short hshort]
    rfl
  · rw [decodeReply_whole hw hd hr hwhole hf, replyAnswer, if_neg (by omega)]
    cases hres : decFields s.cfg rp.rfields (bs.take (rp.rlen - 2)) [] with
    | ok v => rfl
    | error c =>
      rw [finishReply_error, settleFor_decFields hd hr (payload_length hwhole) hres]
      rfl

/-! ### The statements -/

/-- Settles O44: the operation is `sendBody` of the encoded body. -/
theorem xferSendTransmitsOneFrame : Obligations.XferSendTransmitsOneFrame := by
  intro ds params s row body hw hp hd hr he
  obtain ⟨t, ht, hspec⟩ := sendBody_spec body hw
  exact ⟨t, (exec_xferSend_sent hp hd hr he).trans (congrArg _ ht), hspec⟩

/-- Settles O45: the operation is `sendBody` of the body as given. -/
theorem xferSendrawTransmitsTheBodyFramed : Obligations.XferSendrawTransmitsTheBodyFramed := by
  intro body s hw hp
  refine ⟨fun k hc hk => exec_xferSendraw_full hp (fits_of_lt hc hk), fun hcap => ?_⟩
  obtain ⟨t, ht, hspec⟩ := sendBody_spec body hw
  exact ⟨t, (exec_xferSendraw_sent hp (fits_of_le hcap)).trans (congrArg _ ht), hspec⟩

/-- Settles O46, by TRANSPORT's answer to the send and then to the receive. -/
theorem xferQuerySendsOnceAndReceivesOnce : Obligations.XferQuerySendsOnceAndReceivesOnce := by
  intro ds params s row rp body hw hwr hp hd hr hcap he
  have hf := fits_of_le hcap
  have hstored := memRead_memWriteN_zero hw body
  cases ha : nextSend s with
  | ioError =>
    refine ⟨_, .fault (.transportError .send), exec_xferQuery_sendFailed hp hd hr hf he ha, ?_, hstored, ?_, nofun⟩
    · rw [telegram_eq hw]
      rfl
    · exact fun _ => ⟨rfl, rfl, rfl, rfl⟩
  | success =>
    have hsent := exec_xferQuery_sent hp hd hr hf he ha
    rw [telegram_eq hw] at hsent
    cases hb : nextRecv s with
    | ioError =>
      rw [receiveReply_of_ioError hb] at hsent
      exact ⟨_, _, hsent, rfl, hstored, nofun, fun _ => ⟨rfl, fun _ => ⟨rfl, rfl, rfl⟩, nofun, nofun⟩⟩
    | timeout =>
      rw [receiveReply_of_timeout hb] at hsent
      exact ⟨_, _, hsent, rfl, hstored, nofun, fun _ => ⟨rfl, nofun, fun _ => ⟨rfl, rfl, rfl⟩, nofun⟩⟩
    | bytes bs =>
      rw [receiveReply_of_bytes hb] at hsent
      have hlen : (bs.take rp.rlen).length ≤ rp.rlen := List.length_take_le _ _
      have hfit := fits_mono hf hlen
      rw [finishReply_decodeReply (s := afterReceive (afterSend body (frameOf body) s)) hwr hd hr hlen hfit,
        conclude_of_quiescent rfl rfl rfl] at hsent
      refine ⟨_, _, hsent, rfl, hstored, nofun, fun _ => ⟨rfl, nofun, nofun, ?_⟩⟩
      rintro cs hcs
      obtain rfl : bs = cs := RecvAnswer.bytes.inj hcs
      refine ⟨rfl, memRead_memWriteN_zero hwr _, fun h => replyAnswer_short ?_, _,
        (exec_decReply ..).trans (congrArg _ (finishReply_decodeReply hwr hd hr hlen hfit)), conclude_responses ..⟩
      exact (List.length_take_le' _ _).trans_lt h

/-- Settles O47: the courses that end before anything is sent. -/
theorem transferFaultsBeforeSendSendNothing : Obligations.TransferFaultsBeforeSendSendNothing := by
  intro ds params s hp
  refine ⟨?unknown, fun row rp hd hr => ⟨?sendReply, ?queryFull, ?queryError⟩,
    fun row hd hr => ⟨?querySendOnly, ?sendError⟩⟩
  case unknown =>
    rintro hd i (rfl | rfl)
    · exact exec_xferSend_unknown hp hd
    · exact exec_xferQuery_unknown hp hd
  case sendReply => exact exec_xferSend_reply hp hd hr
  case queryFull => exact fun k hc hk => exec_xferQuery_full hp hd hr (fits_of_lt hc hk)
  case queryError => exact fun c hcap he => exec_xferQuery_error hp hd hr (fits_of_le hcap) he
  case querySendOnly => exact exec_xferQuery_sendOnly hp hd hr
  case sendError => exact fun c he => exec_xferSend_error hp hd hr he

end Sys2Proof.Machine
end

section
/-! PROOF. What one transaction can do (spec/10_state.md R20 to R32, spec/60_exceptions.md R178 to R183). `Course` lists
the courses of all instructions, each with the state in which its response is given; every instruction runs one of them.
The invariant, the frames and the safety of runs are read off the courses, none of them off an instruction. -/

namespace Sys2Proof.Machine

/-! ### The end of a transaction -/

section Conclude

variable (folded : Bool) (r : Response) (s : State)

@[simp] theorem conclude_ph : (conclude folded r s).ph = s.ph := by cases r <;> rfl
@[simp] theorem conclude_buf : (conclude folded r s).buf = s.buf := by cases r <;> rfl
@[simp] theorem conclude_rbuf : (conclude folded r s).rbuf = s.rbuf := by cases r <;> rfl
@[simp] theorem conclude_out : (conclude folded r s).out = s.out := by cases r <;> rfl
@[simp] theorem conclude_cfg : (conclude folded r s).cfg = s.cfg := by cases r <;> rfl
@[simp] theorem conclude_requests : (conclude folded r s).requests = s.requests := by cases r <;> rfl
@[simp] theorem conclude_sendAnswers : (conclude folded r s).sendAnswers = s.sendAnswers := by cases r <;> rfl
@[simp] theorem conclude_recvAnswers : (conclude folded r s).recvAnswers = s.recvAnswers := by cases r <;> rfl
@[simp] theorem conclude_drawn : (conclude folded r s).drawn = s.drawn := by cases r <;> rfl

/-- Ending a transaction in a quiescent state leaves it quiescent (R32, R178). -/
theorem quiescent_conclude (h : Quiescent s) : Quiescent (conclude folded r s) := by
  obtain ⟨hb, hl, hck⟩ := h
  cases r with
  | ok x => exact ⟨hb, hl, hck⟩
  | fault c =>
    refine ⟨rfl, rfl, fun hp => ?_⟩
    rw [conclude, raise_ck]
    split
    · rfl
    · exact hck hp

theorem machineInv_conclude (h : MachineInv s) : MachineInv (conclude folded r s) := by
  obtain ⟨hq, hbuf, hrbuf, hout⟩ := h
  refine ⟨quiescent_conclude folded r s hq, ?_, ?_, ?_⟩
  · rwa [conclude_buf, conclude_cfg]
  · rwa [conclude_rbuf, conclude_cfg]
  · rwa [conclude_out]

end Conclude

/-! ### The courses -/

/-- The reply buffer after a transaction: as it was, or with a reply that fits (R24, R152). -/
def ReplyStaged (s u : State) : Prop :=
  u.rbuf = s.rbuf ∧ u.rlen = s.rlen ∨
    ∃ bs : Bytes, fits s.cfg.rbufCap bs.length = true ∧ u.rbuf = memWriteN s.rbuf 0 bs ∧ u.rlen = 0

/-- A transfer has handed over its telegram: `BUF` holds the body, `CK` and `BLEN` are quiescent, `OUT` grew by the
telegram, and a reply may stand in `RBUF` (R109, R162 to R164). -/
structure Transferred (body : Bytes) (s u : State) : Prop where
  ck : u.ck = 0x7F
  ph : u.ph = s.ph
  buf : u.buf = memWriteN s.buf 0 body
  blen : u.blen = 0
  reply : ReplyStaged s u
  out : u.out = s.out ++ [telegram body s]
  cfg : u.cfg = s.cfg
  requests : u.requests = s.requests
  responses : u.responses = s.responses

/-- The fault codes of the checks a transfer makes before it sends: `EncodingError`, `PhaseFault`, `CapacityFault` and
`UnknownDS` (R162 to R164, R170). -/
def checkCodes : List Byte := [0x02, 0x05, 0x06, 0x08]

/-- The courses of a transaction of `i` in `s`: whether folding had begun where it ends, its response, and the state in
which the response is given. -/
inductive Course (i : Instr) (s : State) : Bool → Response → State → Prop
  /-- Nothing but the response. -/
  | answered (r : Response) : Course i s false r s
  /-- A body was laid out in `BUF` (R120). -/
  | staged (x : Result) (body : Bytes) (hf : fits s.cfg.bufCap body.length = true) :
    Course i s false (.ok x) { s with buf := memWriteN s.buf 0 body, blen := 0 }
  /-- A whole body was folded (R101, R105). -/
  | folded (x : Result) (body : Bytes) (hp : s.ph = .idle) (hf : fits s.cfg.bufCap body.length = true) :
    Course i s false (.ok x) { s with buf := memWriteN s.buf 0 body, blen := 0, ck := 0x7F }
  /-- A streamed frame was opened (R102). -/
  | opened (hi : i = .frmStart) (hp : s.ph = .idle) : Course i s false (.ok .unit) { s with ck := seed, ph := .body }
  /-- A byte of a streamed frame was folded (R103). -/
  | streamed (x : Result) (b : Byte) (hp : s.ph = .body) : Course i s false (.ok x) { s with ck := s.ck ^^^ b }
  /-- A streamed frame was closed (R104). -/
  | closed (x : Result) (hi : i = .frmEnd) (hp : s.ph = .body) :
    Course i s false (.ok x) { s with ck := seed, ph := .idle }
  /-- A reply was decoded in `RBUF` (R152). -/
  | decoded (r : Response) (bs : Bytes) (hf : fits s.cfg.rbufCap bs.length = true) :
    Course i s false r { s with rbuf := memWriteN s.rbuf 0 bs, rlen := 0 }
  /-- A telegram was handed to TRANSPORT (R162 to R164). -/
  | transferred (r : Response) (body : Bytes) (u : State) (hi : isTransfer i = true) (hp : s.ph = .idle)
    (hf : fits s.cfg.bufCap body.length = true) (hu : Transferred body s u)
    (hr : ∀ c, r = .fault c → faultCode c ∉ checkCodes) : Course i s true r u

/-- `i` runs one of its courses in `s`. -/
def Runs (i : Instr) (s : State) : Prop :=
  ∃ folded r u, Course i s folded r u ∧ exec i s = .next (conclude folded r u)

/-! ### Every instruction runs a course -/

section Runs

variable {i : Instr} {s : State}

theorem runs_of_respond {r : Result} (h : exec i s = .next (respond r s)) : Runs i s :=
  ⟨_, _, _, .answered (.ok r), h⟩

theorem runs_of_raise {c : Cause} (h : exec i s = .next (raise false c s)) : Runs i s :=
  ⟨_, _, _, .answered (.fault c), h⟩

theorem runs_of_finish {α : Type} {wrap : α → Result} {r : Except Cause α}
    (h : exec i s = .next (finish wrap r s)) : Runs i s := by
  cases r with
  | ok v => exact runs_of_respond h
  | error c => exact runs_of_raise h

theorem runs_of_finishBody {r : Except Cause Bytes} (h : exec i s = .next (finishBody i r s))
    (hf : ∀ body, r = .ok body → fits s.cfg.bufCap body.length = true) : Runs i s := by
  cases r with
  | ok body => exact ⟨_, _, _, .staged (.bytes body) body (hf body rfl), h⟩
  | error c => exact runs_of_raise h

theorem runs_of_foldWhole {body : Bytes} {result : State → Result}
    (h : exec i s = .next (foldWhole body result s)) : Runs i s := by
  cases hp : s.ph with
  | body =>
    rw [foldWhole_open hp] at h
    exact runs_of_raise h
  | idle =>
    cases hf : fits s.cfg.bufCap body.length with
    | false =>
      rw [foldWhole_full hp hf] at h
      exact runs_of_raise h
    | true =>
      rw [foldWhole_ok hp hf] at h
      exact ⟨_, _, _, .folded (result (fold body s)) body hp hf, h⟩

/-- How a decode ends: its result, or its fault, whose code the settling of an open index does not change (R152). -/
theorem finishReply_eq_conclude (i : Instr) (folded : Bool) (d : State × Except Cause ReplyResult) :
    ∃ r, finishReply i folded d = conclude folded r d.1 ∧
      ∀ c, r = .fault c → ∃ c', d.2 = .error c' ∧ faultCode c = faultCode c' := by
  obtain ⟨u, c | v⟩ := d
  · refine ⟨.fault (settleFor u.cfg (encode i) c), rfl, ?_⟩
    rintro _ ⟨⟩
    exact ⟨c, rfl, settle_code _ _⟩
  · exact ⟨.ok (.reply v), rfl, nofun⟩

theorem runs_decReply (ds : DsId) (raw : Option Bytes) (s : State) : Runs (.decReply ds raw) s := by
  obtain ⟨r, hr, -⟩ := finishReply_eq_conclude (.decReply ds raw) false (decodeReply ds raw s)
  obtain hu | ⟨bs, -, hf, hu⟩ := decodeReply_state ds raw s <;> rw [hu] at hr
  · exact ⟨_, r, _, .answered r, congrArg _ hr⟩
  · exact ⟨_, r, _, .decoded r bs hf, congrArg _ hr⟩

/-! ### Every transfer runs a course -/

theorem transferred_afterSend (body : Bytes) (s : State) :
    Transferred body s (afterSend body (telegram body s) s) :=
  ⟨rfl, rfl, rfl, rfl, .inl ⟨rfl, rfl⟩, rfl, rfl, rfl, rfl⟩

theorem transferred_afterReceive (body : Bytes) (s : State) :
    Transferred body s (afterReceive (afterSend body (telegram body s) s)) :=
  ⟨rfl, rfl, rfl, rfl, .inl ⟨rfl, rfl⟩, rfl, rfl, rfl, rfl⟩

/-- A reply decoded after the receive leaves what the transfer did, with the reply in `RBUF` (R164). -/
theorem transferred_decodeReply (ds : DsId) (raw : Option Bytes) (body : Bytes) (s : State) :
    Transferred body s (decodeReply ds raw (afterReceive (afterSend body (telegram body s) s))).1 := by
  obtain hu | ⟨bs, -, hf, hu⟩ :=
    decodeReply_state ds raw (afterReceive (afterSend body (telegram body s) s)) <;> rw [hu]
  · exact transferred_afterReceive body s
  · exact ⟨rfl, rfl, rfl, rfl, .inr ⟨bs, hf, rfl, rfl⟩, rfl, rfl, rfl, rfl⟩

/-- A reply that is not too long and fits is decoded without a fault of a transfer's checks (R164, R170). -/
theorem decodeReply_code {ds : DsId} {u : State} {row : Row} {rp : ReplySpec} {bs : Bytes} {c : Cause}
    (hd : dsRow u.cfg ds = some row) (hr : row.reply = some rp) (hl : bs.length ≤ rp.rlen)
    (hf : fits u.cfg.rbufCap bs.length = true) (h : (decodeReply ds (some bs) u).2 = .error c) :
    faultCode c ∉ checkCodes := by
  simp only [decodeReply, hd, hr, if_neg (Nat.not_lt.mpr hl), hf, if_true, decodeStaged] at h
  split at h
  · cases h
  · obtain ⟨f, -, hc⟩ := decFields_eq_error h
    obtain ⟨b, rfl⟩ | ⟨x, rfl⟩ | ⟨-, -, x, rfl⟩ := decField_error hc
    all_goals exact of_decide_eq_true rfl

theorem runs_of_sendBody {body : Bytes} (hi : isTransfer i = true) (hp : s.ph = .idle)
    (hf : fits s.cfg.bufCap body.length = true) (h : exec i s = .next (sendBody body s)) : Runs i s := by
  cases ha : nextSend s with
  | success =>
    rw [sendBody_of_success ha] at h
    exact ⟨_, _, _, .transferred (.ok .unit) body _ hi hp hf (transferred_afterSend body s) nofun, h⟩
  | ioError =>
    rw [sendBody_of_ioError ha] at h
    refine ⟨_, _, _, .transferred (.fault (.transportError .send)) body _ hi hp hf (transferred_afterSend body s) ?_, h⟩
    rintro _ ⟨⟩
    exact of_decide_eq_true rfl

theorem runs_xferSend {ds : DsId} {params : List Operand} (hp : s.ph = .idle) : Runs (.xferSend ds params) s := by
  cases hd : dsRow s.cfg ds with
  | none => exact runs_of_raise (exec_xferSend_unknown hp hd)
  | some row =>
    cases hr : row.reply with
    | some rp => exact runs_of_raise (exec_xferSend_reply hp hd hr)
    | none =>
      cases he : encodeBody s.cfg ds params with
      | error c => exact runs_of_raise (exec_xferSend_error hp hd hr he)
      | ok body => exact runs_of_sendBody rfl hp (encodeBody_fits he) (exec_xferSend_sent hp hd hr he)

theorem runs_xferSendraw {body : Bytes} (hp : s.ph = .idle) : Runs (.xferSendraw body) s := by
  cases hf : fits s.cfg.bufCap body.length with
  | false => exact runs_of_raise (exec_xferSendraw_full hp hf)
  | true => exact runs_of_sendBody rfl hp hf (exec_xferSendraw_sent hp hf)

/-- The receive half of a query ends the transfer in one of TRANSPORT's three answers (R164). -/
theorem runs_of_receiveReply {ds : DsId} {row : Row} {rp : ReplySpec} {body : Bytes} (hi : isTransfer i = true)
    (hp : s.ph = .idle) (hf : fits s.cfg.bufCap body.length = true) (hd : dsRow s.cfg ds = some row)
    (hr : row.reply = some rp) (hfr : fits s.cfg.rbufCap rp.rlen = true)
    (h : exec i s = .next (receiveReply i ds rp.rlen (afterSend body (telegram body s) s))) : Runs i s := by
  cases hb : nextRecv s with
  | ioError =>
    rw [receiveReply_of_ioError hb] at h
    refine ⟨_, _, _,
      .transferred (.fault (.transportError .receive)) body _ hi hp hf (transferred_afterReceive body s) ?_, h⟩
    rintro _ ⟨⟩
    exact of_decide_eq_true rfl
  | timeout =>
    rw [receiveReply_of_timeout hb] at h
    exact ⟨_, _, _, .transferred (.ok (.reply .noReply)) body _ hi hp hf (transferred_afterReceive body s) nofun, h⟩
  | bytes bs =>
    have hlen : (bs.take rp.rlen).length ≤ rp.rlen := List.length_take_le _ _
    obtain ⟨r, hconclude, hcode⟩ := finishReply_eq_conclude i true
      (decodeReply ds (some (bs.take rp.rlen)) (afterReceive (afterSend body (telegram body s) s)))
    rw [receiveReply_of_bytes hb, hconclude] at h
    refine ⟨_, r, _, .transferred r body _ hi hp hf (transferred_decodeReply ds _ body s) ?_, h⟩
    intro c hc
    obtain ⟨c', hc', heq⟩ := hcode c hc
    rw [heq]
    exact decodeReply_code (u := afterReceive (afterSend body (telegram body s) s)) hd hr hlen
      (fits_mono hfr hlen) hc'

theorem runs_xferQuery {ds : DsId} {params : List Operand} (hp : s.ph = .idle) : Runs (.xferQuery ds params) s := by
  cases hd : dsRow s.cfg ds with
  | none => exact runs_of_raise (exec_xferQuery_unknown hp hd)
  | some row =>
    cases hr : row.reply with
    | none => exact runs_of_raise (exec_xferQuery_sendOnly hp hd hr)
    | some rp =>
      cases hfr : fits s.cfg.rbufCap rp.rlen with
      | false => exact runs_of_raise (exec_xferQuery_full hp hd hr hfr)
      | true =>
        cases he : encodeBody s.cfg ds params with
        | error c => exact runs_of_raise (exec_xferQuery_error hp hd hr hfr he)
        | ok body =>
          have hf := encodeBody_fits he
          cases ha : nextSend s with
          | ioError =>
            refine ⟨_, _, _, .transferred (.fault (.transportError .send)) body _ rfl hp hf
              (transferred_afterSend body s) ?_, exec_xferQuery_sendFailed hp hd hr hfr he ha⟩
            rintro _ ⟨⟩
            exact of_decide_eq_true rfl
          | success => exact runs_of_receiveReply rfl hp hf hd hr hfr (exec_xferQuery_sent hp hd hr hfr he ha)

/-- An operation that needs `IDLE` faults while a streamed frame is open (R176). -/
theorem runs_of_open {ds : DsId} {params : List Operand} {body : Bytes} (hp : s.ph = .body)
    (hi : i ∈ [Instr.frmFrame body, .frmCksum body, .frmStart, .xferSend ds params, .xferSendraw body,
      .xferQuery ds params]) : Runs i s := by
  obtain ⟨k, hk⟩ := exec_eq_whenIdle hi
  have h := hk s
  rw [whenIdle_body hp] at h
  exact runs_of_raise h

/-- An operation that needs `BODY` faults while no streamed frame is open (R176). -/
theorem runs_of_closed {b : Byte} (hp : s.ph = .idle) (hi : i ∈ [Instr.frmByte b, .frmEnd]) : Runs i s := by
  obtain ⟨k, hk⟩ := exec_eq_whenBody hi
  have h := hk s
  rw [whenBody_idle hp] at h
  exact runs_of_raise h

end Runs

/-- Every instruction runs one of its courses: it answers a next state, and this is all it does. -/
theorem exec_runs (i : Instr) (s : State) : Runs i s := by
  cases i with
  | vdvEnc | scmChr | scmStr | decStatus | decVerstr | frameTrailer | fieldNibbleChar | bodyLpNextStopId
  | bodyDestTextHeader | bodyBlockCount | bodyLsaLength | bodyLpconnControl | bodyDisplayStatusReference =>
    exact runs_of_respond rfl
  | vdvDec | vdvEncw | vdvDecw | fldDec | fldTxt | fldRaw | rxStrip | decBeacon | decVerint | fieldDecimalDigit
  | bodyLineNumber => exact runs_of_finish rfl
  | frmCksum | frmFrame => exact runs_of_foldWhole rfl
  | encFixed => exact runs_of_finishBody rfl fun _ h => bodyFixed_fits h
  | encBlock => exact runs_of_finishBody rfl fun _ h => bodyBlock_fits h
  | encLpconn => exact runs_of_finishBody rfl fun _ h => bodyLpconn_fits h
  | encLsa => exact runs_of_finishBody rfl fun _ h => bodyLsa_fits h
  | decReply ds raw => exact runs_decReply ds raw s
  | frmStart =>
    cases hp : s.ph with
    | body => exact runs_of_open (ds := .destText) (params := []) (body := []) hp (by simp)
    | idle => exact ⟨_, _, _, .opened rfl hp, exec_frmStart_idle hp⟩
  | frmByte b =>
    cases hp : s.ph with
    | idle => exact runs_of_closed (b := b) hp (by simp)
    | body => exact ⟨_, _, _, .streamed (.byte b) b hp, exec_frmByte_open hp⟩
  | frmEnd =>
    cases hp : s.ph with
    | idle => exact runs_of_closed (b := 0) hp (by simp)
    | body => exact ⟨_, _, _, .closed (.bytes [term, s.ck ^^^ term]) rfl hp, exec_frmEnd_open hp⟩
  | xferSend ds params =>
    cases hp : s.ph with
    | body => exact runs_of_open (ds := ds) (params := params) (body := []) hp (by simp)
    | idle => exact runs_xferSend hp
  | xferSendraw body =>
    cases hp : s.ph with
    | body => exact runs_of_open (ds := .destText) (params := []) (body := body) hp (by simp)
    | idle => exact runs_xferSendraw hp
  | xferQuery ds params =>
    cases hp : s.ph with
    | body => exact runs_of_open (ds := ds) (params := params) (body := []) hp (by simp)
    | idle => exact runs_xferQuery hp

/-- All that an answered instruction can have done. -/
theorem exec_eq_next {i : Instr} {s t : State} (h : exec i s = .next t) :
    ∃ folded r u, Course i s folded r u ∧ t = conclude folded r u := by
  obtain ⟨folded, r, u, hc, hexec⟩ := exec_runs i s
  exact ⟨folded, r, u, hc, Host.Outcome.next.inj (h.symm.trans hexec)⟩

/-! ### What every course keeps -/

section Frames

variable {i : Instr} {s u : State} {folded : Bool} {r : Response}

theorem Course.cfg_eq (h : Course i s folded r u) : u.cfg = s.cfg := by
  cases h with
  | transferred _ _ _ _ _ _ hu => exact hu.cfg
  | _ => rfl

theorem Course.requests_eq (h : Course i s folded r u) : u.requests = s.requests := by
  cases h with
  | transferred _ _ _ _ _ _ hu => exact hu.requests
  | _ => rfl

theorem Course.responses_eq (h : Course i s folded r u) : u.responses = s.responses := by
  cases h with
  | transferred _ _ _ _ _ _ hu => exact hu.responses
  | _ => rfl

/-- The response of a course is the last of the responses. -/
theorem Course.response_eq {x : Response} (h : Course i s folded r u)
    (hx : (conclude folded r u).responses = s.responses ++ [x]) : r = x := by
  rw [conclude_responses, h.responses_eq] at hx
  simpa using hx

/-- Every course keeps the invariant (R23 to R25, R32). -/
theorem Course.machineInv (h : Course i s folded r u) (hs : MachineInv s) : MachineInv u := by
  obtain ⟨⟨hb, hl, hck⟩, hbuf, hrbuf, hout⟩ := hs
  cases h with
  | answered => exact ⟨⟨hb, hl, hck⟩, hbuf, hrbuf, hout⟩
  | staged _ _ hf => exact ⟨⟨rfl, hl, hck⟩, memWriteN_bufferOk hbuf hf, hrbuf, hout⟩
  | folded _ _ _ hf => exact ⟨⟨rfl, hl, fun _ => rfl⟩, memWriteN_bufferOk hbuf hf, hrbuf, hout⟩
  | opened => exact ⟨⟨hb, hl, nofun⟩, hbuf, hrbuf, hout⟩
  | streamed _ _ hp => exact ⟨⟨hb, hl, fun hidle => absurd (hp.symm.trans hidle) nofun⟩, hbuf, hrbuf, hout⟩
  | closed => exact ⟨⟨hb, hl, fun _ => rfl⟩, hbuf, hrbuf, hout⟩
  | decoded _ _ hf => exact ⟨⟨hb, rfl, hck⟩, hbuf, memWriteN_bufferOk hrbuf hf, hout⟩
  | transferred _ body _ _ _ hf hu =>
    refine ⟨⟨hu.blen, ?_, fun _ => hu.ck⟩, ?_, ?_, ?_⟩
    · obtain ⟨-, hrl⟩ | ⟨_, -, -, hrl⟩ := hu.reply
      · exact hrl.trans hl
      · exact hrl
    · rw [hu.buf, hu.cfg]
      exact memWriteN_bufferOk hbuf hf
    · rw [hu.cfg]
      obtain ⟨hr, -⟩ | ⟨bs, hfr, hr, -⟩ := hu.reply <;> rw [hr]
      · exact hrbuf
      · exact memWriteN_bufferOk hrbuf hfr
    · rw [hu.out, List.forall_mem_append, List.forall_mem_singleton]
      exact ⟨hout, body, telegram_eq hbuf.1⟩

end Frames

/-! ### The step -/

/-- All that a step can do: wait, execute a decoded request, or answer a request that is no instruction by a fault of
the port. -/
theorem step_eq_next {s t : State} (h : step s = .next t) :
    s.requests = [] ∧ t = s ∨ ∃ r rest, s.requests = r :: rest ∧
      ((∃ i, decode r = .ok i ∧ exec i { s with requests := rest } = .next t) ∨
        ∃ c, t = raise false c { s with requests := rest }) := by
  cases hq : s.requests with
  | nil =>
    rw [step_of_no_request hq] at h
    exact .inl ⟨rfl, (Host.Outcome.next.inj h).symm⟩
  | cons r rest =>
    refine .inr ⟨r, rest, rfl, ?_⟩
    cases hd : decode r with
    | ok i => exact .inl ⟨i, rfl, step_of_decode_ok hq hd ▸ h⟩
    | error e =>
      rw [step_of_decode_error hq hd] at h
      cases e <;> cases h
      all_goals exact .inr ⟨_, rfl⟩

theorem decode_cmd_not_noLayout {op : Byte} {args : List Arg} {slot : WireSlot} :
    decode (.cmd op args) ≠ .error (.noLayout slot) := by
  simp only [decode, decodeCmd]
  split
  · nofun
  · split <;> nofun

/-- A command is answered by a next state, whatever its opcode and operands (R178, R183). -/
theorem step_cmd_next {s : State} {op : Byte} {args : List Arg} {rest : List Request}
    (hq : s.requests = .cmd op args :: rest) : ∃ t, step s = .next t := by
  cases hd : decode (.cmd op args) with
  | ok i =>
    obtain ⟨_, _, _, -, h⟩ := exec_runs i { s with requests := rest }
    exact ⟨_, (step_of_decode_ok hq hd).trans h⟩
  | error e =>
    rw [step_of_decode_error hq hd]
    cases e with
    | illegalCommand op => exact ⟨_, rfl⟩
    | operands op index => exact ⟨_, rfl⟩
    | noLayout slot => exact absurd hd decode_cmd_not_noLayout

/-- A step takes one request and gives one response (R8). -/
theorem step_takes_one {s t : State} {r : Request} {rest : List Request} (hq : s.requests = r :: rest)
    (h : step s = .next t) : t.requests = rest ∧ ∃ x, t.responses = s.responses ++ [x] := by
  obtain ⟨hnone, -⟩ | ⟨r', rest', hq', hcase⟩ := step_eq_next h
  · rw [hq] at hnone
    cases hnone
  · obtain ⟨rfl, rfl⟩ := List.cons.inj (hq.symm.trans hq')
    obtain ⟨i, -, hexec⟩ | ⟨c, rfl⟩ := hcase
    · obtain ⟨folded, x, u, hc, rfl⟩ := exec_eq_next hexec
      rw [conclude_requests, conclude_responses, hc.requests_eq, hc.responses_eq]
      exact ⟨rfl, x, rfl⟩
    · exact ⟨rfl, _, rfl⟩

/-- Every request of the queue is a command of the port (R73). -/
def AllCommands (s : State) : Prop := ∀ r ∈ s.requests, ∃ op args, r = .cmd op args

/-- A queue of commands steps to a queue of commands (R183, R204). -/
theorem step_of_allCommands {s : State} (h : AllCommands s) : ∃ t, step s = .next t ∧ AllCommands t := by
  cases hq : s.requests with
  | nil => exact ⟨s, step_of_no_request hq, h⟩
  | cons r rest =>
    obtain ⟨⟨op, args, rfl⟩, hrest⟩ := List.forall_mem_cons.mp (hq ▸ h : ∀ x ∈ r :: rest, ∃ op args, x = .cmd op args)
    obtain ⟨t, ht⟩ := step_cmd_next hq
    obtain ⟨hreq, -⟩ := step_takes_one hq ht
    exact ⟨t, ht, fun x hx => hrest x (hreq ▸ hx)⟩

theorem safe_of_allCommands {s : State} (h : AllCommands s) : Safe s := by
  intro k
  induction k generalizing s with
  | zero => exact ⟨s, rfl⟩
  | succ k ih =>
    obtain ⟨t, ht, hcmds⟩ := step_of_allCommands h
    obtain ⟨u, hu⟩ := ih hcmds
    exact ⟨u, (run_succ_of_step_next ht k).trans hu⟩

/-! ### The statements -/

/-- Settles O52: waiting keeps the state, fault entry keeps the invariant, and so does every course. -/
theorem everyStepKeepsTheInvariant : Obligations.EveryStepKeepsTheInvariant := by
  intro s t hs h
  obtain ⟨-, rfl⟩ | ⟨r, rest, -, hcase⟩ := step_eq_next h
  · exact hs
  · have htaken : MachineInv { s with requests := rest } := hs
    obtain ⟨i, -, hexec⟩ | ⟨c, rfl⟩ := hcase
    · obtain ⟨folded, x, u, hc, rfl⟩ := exec_eq_next hexec
      exact machineInv_conclude folded x u (hc.machineInv htaken)
    · exact machineInv_conclude false (.fault c) _ htaken

/-- Settles O53, by the courses of a step. -/
theorem configurationIsConstant : Obligations.ConfigurationIsConstant := by
  intro s t h
  obtain ⟨-, rfl⟩ | ⟨r, rest, -, ⟨i, -, hexec⟩ | ⟨c, rfl⟩⟩ := step_eq_next h
  · rfl
  · obtain ⟨folded, x, u, hc, rfl⟩ := exec_eq_next hexec
    rw [conclude_cfg, hc.cfg_eq]
  · rfl

/-- Settles O54: only the course of a transfer changes `OUT` and takes answers, and its telegram is a frame. -/
theorem onlyTransfersReachTransport : Obligations.OnlyTransfersReachTransport := by
  intro i s t hw h
  obtain ⟨folded, x, u, hc, rfl⟩ := exec_eq_next h
  simp only [conclude_out, conclude_sendAnswers, conclude_recvAnswers]
  cases hc with
  | transferred _ body _ hi _ _ hu =>
    refine ⟨fun hno => absurd (hi.symm.trans hno) nofun, .inr ⟨body, ?_⟩⟩
    rw [hu.out, telegram_eq hw]
  | _ => exact ⟨fun _ => ⟨rfl, rfl, rfl⟩, .inl rfl⟩

/-- Settles O55. -/
theorem oneResponsePerTransaction : Obligations.OneResponsePerTransaction :=
  fun _ _ _ _ => step_takes_one

/-- Settles O56: two courses change the phase. -/
theorem phaseChangesOnlyByStartAndEnd : Obligations.PhaseChangesOnlyByStartAndEnd := by
  intro i s t h hne
  obtain ⟨folded, x, u, hc, rfl⟩ := exec_eq_next h
  rw [conclude_ph] at hne
  cases hc with
  | opened hi hp => exact .inl ⟨hi, hp, rfl, rfl⟩
  | closed x hi hp => exact .inr ⟨hi, hp, rfl⟩
  | transferred _ _ _ _ _ _ hu => exact absurd hu.ph hne
  | _ => exact absurd rfl hne

/-- Settles O49: of the courses that can end in a fault only a transfer reaches TRANSPORT, and its fault is then none of
its checks'. -/
theorem faultsLeaveTheRegisters : Obligations.FaultsLeaveTheRegisters := by
  intro i s t c hs h hresp
  obtain ⟨-, -, hck⟩ := hs
  obtain ⟨folded, x, u, hc, rfl⟩ := exec_eq_next h
  obtain rfl := hc.response_eq hresp
  cases hc with
  | answered => exact ⟨rfl, rfl, rfl, rfl, rfl, fun _ => ⟨rfl, rfl, rfl, rfl⟩⟩
  | decoded => exact ⟨rfl, rfl, rfl, rfl, rfl, fun _ => ⟨rfl, rfl, rfl, rfl⟩⟩
  | transferred _ body _ hi hp _ hu hlate =>
    refine ⟨(hck hp).symm, hu.ph, rfl, rfl, hu.cfg, ?_⟩
    rintro (hno | hcode)
    · exact absurd (hi.symm.trans hno) nofun
    · refine absurd ?_ (hlate c rfl)
      simpa only [checkCodes, List.mem_cons, List.not_mem_nil, or_false] using hcode

/-- Settles O58: a command steps to a next state and leaves the rest of the queue, so no run stops. -/
theorem runsOfCommandsNeverStop : Obligations.RunsOfCommandsNeverStop :=
  ⟨fun _ => step_of_allCommands, fun _ => safe_of_allCommands⟩

end Sys2Proof.Machine
end

section
/-! PROOF. Noninterference (spec/10_state.md R32, spec/70_reset_and_hazards.md R190). `Alike` relates two runs of one
instruction that end with the same response; each course of an instruction is taken in both states or in neither, since
its checks look at the phase, the configuration and TRANSPORT's answers only. -/

namespace Sys2Proof.Machine

/-! ### Two runs with one response -/

/-- `i` ends with the same response in both states, and takes equal inputs to equal inputs. -/
def Alike (i : Instr) (s t : State) : Prop :=
  ∃ folded r u v, exec i s = .next (conclude folded r u) ∧ exec i t = .next (conclude folded r v) ∧
    u.responses = s.responses ∧ v.responses = t.responses ∧ (SameInputs s t → SameInputs u v)

theorem sameInputs_conclude {folded : Bool} {r : Response} {u v : State} (h : SameInputs u v) :
    SameInputs (conclude folded r u) (conclude folded r v) := by
  simpa only [SameInputs, conclude_ph, conclude_cfg, conclude_sendAnswers, conclude_recvAnswers, conclude_drawn] using h

theorem sameInputs_afterSend {s t : State} (h : SameInputs s t) (body tg tg' : Bytes) :
    SameInputs (afterSend body tg s) (afterSend body tg' t) := by
  obtain ⟨hp, hcfg, hsend, hrecv, hdrawn⟩ := h
  exact ⟨hp, hcfg, congrArg List.tail hsend, hrecv, by simp only [afterSend, hsend, hdrawn]⟩

theorem sameInputs_afterReceive {s t : State} (h : SameInputs s t) :
    SameInputs (afterReceive s) (afterReceive t) := by
  obtain ⟨hp, hcfg, hsend, hrecv, hdrawn⟩ := h
  exact ⟨hp, hcfg, hsend, congrArg List.tail hrecv, by simp only [afterReceive, hrecv, hdrawn]⟩

section Rules

variable {i : Instr} {s t : State}

theorem Alike.spec {s' t' : State} (h : Alike i s t) (hs : exec i s = .next s') (ht : exec i t = .next t') :
    (∃ r, s'.responses = s.responses ++ [r] ∧ t'.responses = t.responses ++ [r]) ∧
      (SameInputs s t → SameInputs s' t') := by
  obtain ⟨folded, r, u, v, hu, hv, hur, hvr, hin⟩ := h
  obtain rfl := Host.Outcome.next.inj (hs.symm.trans hu)
  obtain rfl := Host.Outcome.next.inj (ht.symm.trans hv)
  refine ⟨⟨r, ?_, ?_⟩, fun hst => sameInputs_conclude (hin hst)⟩
  · rw [conclude_responses, hur]
  · rw [conclude_responses, hvr]

theorem alike_of_respond {x : Result} (hs : exec i s = .next (respond x s)) (ht : exec i t = .next (respond x t)) :
    Alike i s t :=
  ⟨false, .ok x, s, t, hs, ht, rfl, rfl, id⟩

theorem alike_of_raise {c : Cause} (hs : exec i s = .next (raise false c s)) (ht : exec i t = .next (raise false c t)) :
    Alike i s t :=
  ⟨false, .fault c, s, t, hs, ht, rfl, rfl, id⟩

/-- A fault with an open operand index records the same index in both states (R28, log entry 8). -/
theorem alike_of_raiseFor {c : Cause} (hcfg : s.cfg = t.cfg) (hs : exec i s = .next (raiseFor i false c s))
    (ht : exec i t = .next (raiseFor i false c t)) : Alike i s t := by
  rw [raiseFor, ← hcfg] at ht
  exact alike_of_raise hs ht

theorem alike_of_finish {α : Type} {wrap : α → Result} {r : Except Cause α}
    (hs : exec i s = .next (finish wrap r s)) (ht : exec i t = .next (finish wrap r t)) : Alike i s t := by
  cases r with
  | ok v => exact alike_of_respond hs ht
  | error c => exact alike_of_raise hs ht

theorem alike_of_finishBody {body : Config → Except Cause Bytes} (hcfg : s.cfg = t.cfg)
    (hs : exec i s = .next (finishBody i (body s.cfg) s)) (ht : exec i t = .next (finishBody i (body t.cfg) t)) :
    Alike i s t := by
  rw [← hcfg] at ht
  cases hr : body s.cfg with
  | ok b =>
    rw [hr] at hs ht
    exact ⟨false, .ok (.bytes b), _, _, hs, ht, rfl, rfl, id⟩
  | error c =>
    rw [hr] at hs ht
    exact alike_of_raiseFor hcfg hs ht

theorem alike_of_foldWhole {body : Bytes} {result : State → Result} (hp : s.ph = t.ph) (hcfg : s.cfg = t.cfg)
    (hres : result (fold body s) = result (fold body t)) (hs : exec i s = .next (foldWhole body result s))
    (ht : exec i t = .next (foldWhole body result t)) : Alike i s t := by
  cases hps : s.ph with
  | body =>
    rw [foldWhole_open hps] at hs
    rw [foldWhole_open (hp ▸ hps)] at ht
    exact alike_of_raise hs ht
  | idle =>
    cases hf : fits s.cfg.bufCap body.length with
    | false =>
      rw [foldWhole_full hps hf] at hs
      rw [foldWhole_full (hp ▸ hps) (hcfg ▸ hf)] at ht
      exact alike_of_raise hs ht
    | true =>
      rw [foldWhole_ok hps hf] at hs
      rw [foldWhole_ok (hp ▸ hps) (hcfg ▸ hf), ← hres] at ht
      exact ⟨false, .ok (result (fold body s)), { s with buf := memWriteN s.buf 0 body, blen := 0, ck := 0x7F },
        { t with buf := memWriteN t.buf 0 body, blen := 0, ck := 0x7F }, hs, ht, rfl, rfl, id⟩

/-- An operation that needs `IDLE` faults alike while a streamed frame is open (R176). -/
theorem alike_of_open {ds : DsId} {params : List Operand} {body : Bytes} (hps : s.ph = .body) (hpt : t.ph = .body)
    (hi : i ∈ [Instr.frmFrame body, .frmCksum body, .frmStart, .xferSend ds params, .xferSendraw body,
      .xferQuery ds params]) : Alike i s t := by
  obtain ⟨k, hk⟩ := exec_eq_whenIdle hi
  have hs := hk s
  have ht := hk t
  rw [whenIdle_body hps] at hs
  rw [whenIdle_body hpt] at ht
  exact alike_of_raise hs ht

end Rules

/-! ### Replies -/

/-- A reply is answered alike whatever else the two states hold (R153). -/
theorem alike_decReply {ds : DsId} {raw : Option Bytes} {s t : State} (hcfg : s.cfg = t.cfg)
    (hws : Memory.wf s.rbuf) (hwt : Memory.wf t.rbuf) : Alike (.decReply ds raw) s t := by
  have hs := exec_decReply ds raw s
  have ht := exec_decReply ds raw t
  cases hd : dsRow s.cfg ds with
  | none =>
    rw [decodeReply_unknown hd] at hs
    rw [decodeReply_unknown (hcfg ▸ hd)] at ht
    exact alike_of_raiseFor hcfg hs ht
  | some row =>
    cases hr : row.reply with
    | none =>
      rw [decodeReply_sendOnly hd hr] at hs
      rw [decodeReply_sendOnly (hcfg ▸ hd) hr] at ht
      exact alike_of_raiseFor hcfg hs ht
    | some rp =>
      cases raw with
      | none =>
        rw [decodeReply_none hd hr] at hs
        rw [decodeReply_none (hcfg ▸ hd) hr] at ht
        exact alike_of_respond hs ht
      | some bs =>
        obtain hlong | hlen := Nat.lt_or_ge rp.rlen bs.length
        · rw [decodeReply_long hd hr hlong] at hs
          rw [decodeReply_long (hcfg ▸ hd) hr hlong] at ht
          exact alike_of_raiseFor hcfg hs ht
        cases hf : fits s.cfg.rbufCap bs.length with
        | false =>
          rw [decodeReply_full hd hr hlen hf] at hs
          rw [decodeReply_full (hcfg ▸ hd) hr hlen (hcfg ▸ hf)] at ht
          exact alike_of_raiseFor hcfg hs ht
        | true =>
          have hanswer : replyAnswer t.cfg rp bs = replyAnswer s.cfg rp bs := by rw [hcfg]
          rw [finishReply_decodeReply hws hd hr hlen hf] at hs
          rw [finishReply_decodeReply hwt (hcfg ▸ hd) hr hlen (hcfg ▸ hf), hanswer] at ht
          exact ⟨_, _, _, _, hs, ht, rfl, rfl, id⟩

/-! ### Transfers -/

section Transfers

variable {i : Instr} {ds : DsId} {params : List Operand} {s t : State}

theorem alike_of_sendBody {body : Bytes} (ha : nextSend s = nextSend t) (hs : exec i s = .next (sendBody body s))
    (ht : exec i t = .next (sendBody body t)) : Alike i s t := by
  cases has : nextSend s with
  | success =>
    rw [sendBody_of_success has] at hs
    rw [sendBody_of_success (ha ▸ has)] at ht
    exact ⟨true, .ok .unit, _, _, hs, ht, rfl, rfl, fun h => sameInputs_afterSend h ..⟩
  | ioError =>
    rw [sendBody_of_ioError has] at hs
    rw [sendBody_of_ioError (ha ▸ has)] at ht
    exact ⟨true, .fault (.transportError .send), _, _, hs, ht, rfl, rfl, fun h => sameInputs_afterSend h ..⟩

theorem alike_xferSend (hps : s.ph = .idle) (hpt : t.ph = .idle) (hcfg : s.cfg = t.cfg)
    (ha : nextSend s = nextSend t) : Alike (.xferSend ds params) s t := by
  cases hd : dsRow s.cfg ds with
  | none => exact alike_of_raise (exec_xferSend_unknown hps hd) (exec_xferSend_unknown hpt (hcfg ▸ hd))
  | some row =>
    cases hr : row.reply with
    | some rp =>
      exact alike_of_raiseFor hcfg (exec_xferSend_reply hps hd hr) (exec_xferSend_reply hpt (hcfg ▸ hd) hr)
    | none =>
      cases he : encodeBody s.cfg ds params with
      | error c =>
        exact alike_of_raiseFor hcfg (exec_xferSend_error hps hd hr he)
          (exec_xferSend_error hpt (hcfg ▸ hd) hr (hcfg ▸ he))
      | ok body =>
        exact alike_of_sendBody ha (exec_xferSend_sent hps hd hr he) (exec_xferSend_sent hpt (hcfg ▸ hd) hr (hcfg ▸ he))

theorem alike_xferSendraw {body : Bytes} (hps : s.ph = .idle) (hpt : t.ph = .idle) (hcfg : s.cfg = t.cfg)
    (ha : nextSend s = nextSend t) : Alike (.xferSendraw body) s t := by
  cases hf : fits s.cfg.bufCap body.length with
  | false => exact alike_of_raise (exec_xferSendraw_full hps hf) (exec_xferSendraw_full hpt (hcfg ▸ hf))
  | true => exact alike_of_sendBody ha (exec_xferSendraw_sent hps hf) (exec_xferSendraw_sent hpt (hcfg ▸ hf))

/-- The receive half of a query answers alike where TRANSPORT does (R164, R166). -/
theorem alike_of_receiveReply {row : Row} {rp : ReplySpec} {body : Bytes} (hcfg : s.cfg = t.cfg)
    (hb : nextRecv s = nextRecv t) (hws : Memory.wf s.rbuf) (hwt : Memory.wf t.rbuf) (hd : dsRow s.cfg ds = some row)
    (hr : row.reply = some rp) (hf : fits s.cfg.rbufCap rp.rlen = true)
    (hs : exec i s = .next (receiveReply i ds rp.rlen (afterSend body (telegram body s) s)))
    (ht : exec i t = .next (receiveReply i ds rp.rlen (afterSend body (telegram body t) t))) : Alike i s t := by
  have hin (h : SameInputs s t) :=
    sameInputs_afterReceive (sameInputs_afterSend h body (telegram body s) (telegram body t))
  cases hbs : nextRecv s with
  | ioError =>
    rw [receiveReply_of_ioError hbs] at hs
    rw [receiveReply_of_ioError (hb ▸ hbs)] at ht
    exact ⟨true, .fault (.transportError .receive), _, _, hs, ht, rfl, rfl, hin⟩
  | timeout =>
    rw [receiveReply_of_timeout hbs] at hs
    rw [receiveReply_of_timeout (hb ▸ hbs)] at ht
    exact ⟨true, .ok (.reply .noReply), _, _, hs, ht, rfl, rfl, hin⟩
  | bytes bs =>
    have hlen : (bs.take rp.rlen).length ≤ rp.rlen := List.length_take_le _ _
    have hfit := fits_mono hf hlen
    rw [receiveReply_of_bytes hbs,
      finishReply_decodeReply (s := afterReceive (afterSend body (telegram body s) s)) hws hd hr hlen hfit] at hs
    rw [receiveReply_of_bytes (hb ▸ hbs), finishReply_decodeReply
      (s := afterReceive (afterSend body (telegram body t) t)) hwt (hcfg ▸ hd) hr hlen (hcfg ▸ hfit)] at ht
    have hanswer : replyAnswer (afterReceive (afterSend body (telegram body t) t)).cfg rp (bs.take rp.rlen) =
        replyAnswer (afterReceive (afterSend body (telegram body s) s)).cfg rp (bs.take rp.rlen) :=
      congrArg (replyAnswer · rp (bs.take rp.rlen)) hcfg.symm
    rw [hanswer] at ht
    exact ⟨_, _, _, _, hs, ht, rfl, rfl, hin⟩

theorem alike_xferQuery (hps : s.ph = .idle) (hpt : t.ph = .idle) (hcfg : s.cfg = t.cfg)
    (ha : nextSend s = nextSend t) (hb : nextRecv s = nextRecv t) (hws : Memory.wf s.rbuf) (hwt : Memory.wf t.rbuf) :
    Alike (.xferQuery ds params) s t := by
  cases hd : dsRow s.cfg ds with
  | none => exact alike_of_raise (exec_xferQuery_unknown hps hd) (exec_xferQuery_unknown hpt (hcfg ▸ hd))
  | some row =>
    have hdt := hcfg ▸ hd
    cases hr : row.reply with
    | none =>
      exact alike_of_raiseFor hcfg (exec_xferQuery_sendOnly hps hd hr) (exec_xferQuery_sendOnly hpt hdt hr)
    | some rp =>
      cases hf : fits s.cfg.rbufCap rp.rlen with
      | false => exact alike_of_raise (exec_xferQuery_full hps hd hr hf) (exec_xferQuery_full hpt hdt hr (hcfg ▸ hf))
      | true =>
        have hft := hcfg ▸ hf
        cases he : encodeBody s.cfg ds params with
        | error c =>
          exact alike_of_raiseFor hcfg (exec_xferQuery_error hps hd hr hf he)
            (exec_xferQuery_error hpt hdt hr hft (hcfg ▸ he))
        | ok body =>
          have het := hcfg ▸ he
          cases has : nextSend s with
          | ioError =>
            exact ⟨true, .fault (.transportError .send), _, _, exec_xferQuery_sendFailed hps hd hr hf he has,
              exec_xferQuery_sendFailed hpt hdt hr hft het (ha ▸ has), rfl, rfl, fun h => sameInputs_afterSend h ..⟩
          | success =>
            exact alike_of_receiveReply hcfg hb hws hwt hd hr hf (exec_xferQuery_sent hps hd hr hf he has)
              (exec_xferQuery_sent hpt hdt hr hft het (ha ▸ has))

end Transfers

/-! ### Every instruction -/

/-- Every instruction but `FRM.BYTE` and `FRM.END` answers alike in two states with the same phase and configuration,
and for a transfer the same answers of TRANSPORT (R32). -/
theorem exec_alike {i : Instr} {s t : State} (hp : s.ph = t.ph) (hcfg : s.cfg = t.cfg)
    (hanswers : isTransfer i = true → nextSend s = nextSend t ∧ nextRecv s = nextRecv t)
    (hbs : Memory.wf s.buf) (hbt : Memory.wf t.buf) (hrs : Memory.wf s.rbuf) (hrt : Memory.wf t.rbuf)
    (hi : isStreamed i = false) : Alike i s t := by
  cases i with
  | vdvEnc | scmChr | scmStr | decVerstr | frameTrailer | fieldNibbleChar | bodyLpNextStopId | bodyDestTextHeader
  | bodyBlockCount | bodyLsaLength | bodyLpconnControl | bodyDisplayStatusReference =>
    exact alike_of_respond rfl rfl
  | decStatus c => exact alike_of_respond (exec_decStatus c s) (hcfg ▸ exec_decStatus c t)
  | vdvDec | vdvEncw | vdvDecw | fldDec | fldTxt | fldRaw | rxStrip | decBeacon | decVerint | fieldDecimalDigit
  | bodyLineNumber => exact alike_of_finish rfl rfl
  | frmCksum body =>
    exact alike_of_foldWhole hp hcfg (by rw [fold_ck hbs, fold_ck hbt]) (exec_frmCksum body s) (exec_frmCksum body t)
  | frmFrame body =>
    exact alike_of_foldWhole hp hcfg (by rw [framed_fold hbs, framed_fold hbt]) (exec_frmFrame body s)
      (exec_frmFrame body t)
  | encFixed ds params =>
    exact alike_of_finishBody (body := fun cfg => bodyFixed cfg ds params) hcfg rfl rfl
  | encBlock ds text => exact alike_of_finishBody (body := fun cfg => bodyBlock cfg ds text) hcfg rfl rfl
  | encLpconn ds x a b => exact alike_of_finishBody (body := fun cfg => bodyLpconn cfg ds x a b) hcfg rfl rfl
  | encLsa ds params => exact alike_of_finishBody (body := fun cfg => bodyLsa cfg ds params) hcfg rfl rfl
  | decReply => exact alike_decReply hcfg hrs hrt
  | frmByte => cases hi
  | frmEnd => cases hi
  | frmStart =>
    cases hps : s.ph with
    | body => exact alike_of_open (ds := .destText) (params := []) (body := []) hps (hp ▸ hps) (by simp)
    | idle =>
      refine ⟨false, .ok .unit, { s with ck := seed, ph := .body }, { t with ck := seed, ph := .body },
        exec_frmStart_idle hps, exec_frmStart_idle (hp ▸ hps), rfl, rfl, ?_⟩
      rintro ⟨-, hrest⟩
      exact ⟨rfl, hrest⟩
  | xferSend ds params =>
    obtain ⟨ha, -⟩ := hanswers rfl
    cases hps : s.ph with
    | body => exact alike_of_open (ds := ds) (params := params) (body := []) hps (hp ▸ hps) (by simp)
    | idle => exact alike_xferSend hps (hp ▸ hps) hcfg ha
  | xferSendraw body =>
    obtain ⟨ha, -⟩ := hanswers rfl
    cases hps : s.ph with
    | body => exact alike_of_open (ds := .destText) (params := []) (body := body) hps (hp ▸ hps) (by simp)
    | idle => exact alike_xferSendraw hps (hp ▸ hps) hcfg ha
  | xferQuery ds params =>
    obtain ⟨ha, hb⟩ := hanswers rfl
    cases hps : s.ph with
    | body => exact alike_of_open (ds := ds) (params := params) (body := []) hps (hp ▸ hps) (by simp)
    | idle => exact alike_xferQuery hps (hp ▸ hps) hcfg ha hb hrs hrt

/-! ### The statement -/

/-- Settles O57. -/
theorem responsesDependOnInputsAlone : Obligations.ResponsesDependOnInputsAlone := by
  intro i s t s' t' hp hcfg hanswers hbs hbt hrs hrt hi hs ht
  exact (exec_alike hp hcfg hanswers hbs hbt hrs hrt hi).spec hs ht

end Sys2Proof.Machine
end

section
/-! PROOF. The command port (spec/60_exceptions.md R179, R181) and the numbers of the response port (R170 to R173). The
port's checks follow the opcode's row of the table of R73: the phase it needs, and whether it names a data set. -/

namespace Sys2Proof.Machine

/-! ### The rows of the port -/

theorem neededPhase_eq_idle_iff : ∀ op : Byte,
    neededPhase op = some .idle ↔ op ∈ ([0x30, 0x31, 0x32, 0x60, 0x61, 0x62] : List Byte) := by decide

theorem neededPhase_eq_body_iff : ∀ op : Byte,
    neededPhase op = some .body ↔ op ∈ ([0x33, 0x34] : List Byte) := by decide

theorem takesDs_iff : ∀ op : Byte,
    takesDs op = true ↔ op ∈ ([0x48, 0x49, 0x4A, 0x4B, 0x58, 0x60, 0x62] : List Byte) := by decide

/-- The phase an operation needs is not the one it finds (R176). -/
def WrongPhase (op : Byte) (ph : Phase) : Prop :=
  (op ∈ ([0x30, 0x31, 0x32, 0x60, 0x61, 0x62] : List Byte) ∧ ph = .body) ∨
    (op ∈ ([0x33, 0x34] : List Byte) ∧ ph = .idle)

theorem operandFault_of_wrongPhase {cfg : Config} {op : Byte} {args : List Arg} {index : Option Nat} {ph : Phase}
    (h : WrongPhase op ph) : operandFault cfg op args index ph = .phaseFault ph := by
  obtain ⟨hop, rfl⟩ | ⟨hop, rfl⟩ := h
  · exact operandFault_phase ((neededPhase_eq_idle_iff op).mpr hop) nofun
  · exact operandFault_phase ((neededPhase_eq_body_iff op).mpr hop) nofun

theorem operandFault_of_not_wrongPhase {cfg : Config} {op : Byte} {args : List Arg} {index : Option Nat} {ph : Phase}
    (h : ¬ WrongPhase op ph) : operandFault cfg op args index ph = argFault cfg op args index := by
  refine operandFault_args fun p hp => ?_
  by_contra hne
  apply h
  cases p with
  | idle =>
    cases ph with
    | idle => exact absurd rfl hne
    | body => exact .inl ⟨(neededPhase_eq_idle_iff op).mp hp, rfl⟩
  | body =>
    cases ph with
    | idle => exact .inr ⟨(neededPhase_eq_body_iff op).mp hp, rfl⟩
    | body => exact absurd rfl hne

/-! ### The faults of operands -/

/-- A query whose reply does not fit comes before the types of its further operands (R164). -/
theorem argFault_queryTooLong {cfg : Config} {ds : DsId} {args : List Arg} {index : Option Nat} {row : Row}
    {rp : ReplySpec} {k : Nat} (hd : dsRow cfg ds = some row) (hr : row.reply = some rp) (hc : cfg.rbufCap = some k)
    (hk : k < rp.rlen) : argFault cfg 0x62 (.ds ds :: args) index = .capacityFault .rbuf := by
  have htakes : takesDs 0x62 = true := rfl
  have hserves : rowServes 0x62 row = true := by simp [rowServes, hr]
  have hlong : queryTooLong cfg 0x62 row = true := by simp [queryTooLong, hr, fits_of_lt hc hk]
  simp only [argFault, htakes, rowFault, hd, hserves, hlong, if_true, Option.getD_some]

theorem queryTooLong_eq_false {cfg : Config} {op : Byte} {row : Row}
    (h : op = 0x62 → ∀ rp k, row.reply = some rp → cfg.rbufCap = some k → rp.rlen ≤ k) :
    queryTooLong cfg op row = false := by
  rw [queryTooLong, Bool.and_eq_false_iff]
  by_cases hop : op = 0x62
  · right
    cases hr : row.reply with
    | none => rfl
    | some rp => simp [fits_of_le fun k hk => h hop rp k hr hk]
  · exact .inl (beq_false_of_ne hop)

/-- Operands that name no data set have no fault but their own (R179). -/
theorem argFault_noDs {cfg : Config} {op : Byte} {args : List Arg} {index : Option Nat}
    (h : ∀ d more, args = .ds d :: more → takesDs op = false) :
    argFault cfg op args index = .paramFault index none := by
  unfold argFault
  split
  · next d more => rw [h d more rfl]; rfl
  · rfl

/-- With a known data set and a query's reply that fits, the fault is a `ParamFault`: of the row, or of the operands. -/
theorem argFault_known {cfg : Config} {op : Byte} {args : List Arg} {index : Option Nat}
    (h : ∀ d more, args = .ds d :: more → takesDs op = true → ∃ row, dsRow cfg d = some row ∧
      (op = 0x62 → ∀ rp k, row.reply = some rp → cfg.rbufCap = some k → rp.rlen ≤ k)) :
    argFault cfg op args index = .paramFault index none ∨
      argFault cfg op args index = .paramFault none none ∧
        ∃ d more row, args = .ds d :: more ∧ takesDs op = true ∧ dsRow cfg d = some row ∧ rowServes op row = false := by
  by_cases hds : ∃ d more, args = .ds d :: more ∧ takesDs op = true
  · obtain ⟨d, more, rfl, ht⟩ := hds
    obtain ⟨row, hd, hfit⟩ := h d more rfl ht
    cases hs : rowServes op row with
    | true => exact .inl (argFault_served hd hs (queryTooLong_eq_false hfit))
    | false => exact .inr ⟨argFault_row ht hd hs, d, more, row, rfl, ht, hd, hs⟩
  · refine .inl (argFault_noDs fun d more hargs => ?_)
    exact Bool.eq_false_iff.mpr fun ht => hds ⟨d, more, hargs, ht⟩

/-- A recorded `ParamFault` has an index, the stated one where there is one (R170, log entry 8). -/
theorem settleFor_paramFault (cfg : Config) (r : Request) (index : Option Nat) :
    ∃ k, settleFor cfg r (.paramFault index none) = .paramFault (some k) none ∧ ∀ i, index = some i → k = i := by
  cases index with
  | none => exact ⟨_, rfl, nofun⟩
  | some i => exact ⟨i, rfl, fun _ => Option.some.inj⟩

/-! ### The statements -/

/-- Settles O4: the port's fault is `operandFault`, whose checks come in the order of the clauses. -/
theorem mismatchedOperandsAnswerTheFirstFault : Obligations.MismatchedOperandsAnswerTheFirstFault := by
  intro s op args rest index hq hd
  refine ⟨settleFor s.cfg (.cmd op args) (operandFault s.cfg op args index s.ph), step_of_decode_error hq hd,
    fun hwrong => ?phase, fun hright => ?_⟩
  case phase => rw [operandFault_of_wrongPhase hwrong]; rfl
  rw [operandFault_of_not_wrongPhase hright]
  refine ⟨?unknown, ?queryFull, fun hknown => ?param⟩
  case unknown =>
    rintro d more rfl hop hnone
    rw [argFault_unknown ((takesDs_iff op).mpr hop) hnone]
    rfl
  case queryFull =>
    rintro d more row rp k rfl rfl hrow hr hc hk
    rw [argFault_queryTooLong hrow hr hc hk]
    rfl
  case param =>
    obtain hown | ⟨hrowFault, d, more, row, hargs, ht, hrow, hs⟩ :=
      argFault_known (index := index) fun d more hargs ht => hknown d more hargs ((takesDs_iff op).mp ht)
    · obtain ⟨k, hk, hindex⟩ := settleFor_paramFault s.cfg (.cmd op args) index
      exact ⟨k, hown ▸ hk, fun _ => hindex⟩
    · obtain ⟨k, hk, -⟩ := settleFor_paramFault s.cfg (.cmd op args) none
      refine ⟨k, hrowFault ▸ hk, fun hserves => ?_⟩
      exact absurd ((hserves d more row hargs ((takesDs_iff op).mp ht) hrow).symm.trans hs) nofun

/-- Settles O50, by the tables of the codes. -/
theorem faultCodesAreTheTable : Obligations.FaultCodesAreTheTable := by
  refine ⟨?_, ?_, ?_, ?_, ?_, ?_, ?_, ?_, ?_, ?_, rfl, rfl⟩
  all_goals intros; rfl

end Sys2Proof.Machine
end

section
/-! PROOF. The state after reset (spec/70_reset_and_hazards.md R190) and the wire layouts (spec/30_encoding.md R60 to
R71), whose characters are the four bits 0011 in front of a nibble. -/

namespace Sys2Proof.Machine

theorem bufferOk_nil (cap : Option Nat) : BufferOk [] cap :=
  ⟨⟨.nil, by simp⟩, by simp⟩

/-! ### Characters as bits -/

theorem nibbleChar_eq_append : ∀ n : Nibble, nibbleChar n = 0x3#4 ++ n := by decide

theorem digitChar_eq_append : ∀ d : Nibble, d ≤ 9 → (0x30 : Byte) + BitVec.ofNat 8 (d.toNat % 10) = 0x3#4 ++ d := by
  decide

theorem digitByte_ok {d : Nibble} (h : d ≤ 9) : digitByte d = .ok [0x3#4 ++ d] := by
  have hd : d.toNat ≤ 9 := h
  have hchars : decimalChars 1 d.toNat = [0x30 + BitVec.ofNat 8 (d.toNat % 10)] := by simp [decimalChars_succ]
  rw [digitByte, fdec_natCast (by decide) (by omega), hchars, digitChar_eq_append d h]

theorem digitByte_overflow {d : Nibble} (h : 9 < d) :
    digitByte d = .error (.encodingError .decimalOverflow d.toNat) := by
  have hd : 9 < d.toNat := h
  exact fdec_overflow (by decide) (by omega)

/-- The digits of a body (R71). -/
theorem digitBytes_ok {ds : List Nibble} (h : ∀ d ∈ ds, d ≤ 9) :
    digitBytes ds = .ok (ds.map fun d => (0x3#4 ++ d : Byte)) := by
  induction ds with
  | nil => rfl
  | cons d ds ih =>
    obtain ⟨hd, hds⟩ := List.forall_mem_cons.mp h
    simp only [digitBytes, digitByte_ok hd, ih hds, List.map_cons, List.singleton_append]

/-- The first digit above 9 is the fault of a body (log entry 6). -/
theorem digitBytes_overflow {ds : List Nibble} {d : Nibble} (h : ds.find? (fun x => 9 < x) = some d) :
    digitBytes ds = .error (.encodingError .decimalOverflow d.toNat) := by
  induction ds with
  | nil => cases h
  | cons e ds ih =>
    rw [List.find?_cons] at h
    split at h
    · next he =>
      cases h
      simp only [digitBytes, digitByte_overflow (of_decide_eq_true he)]
    · next he =>
      have hle : e ≤ 9 := BitVec.not_lt.mp (of_decide_eq_false he)
      simp only [digitBytes, digitByte_ok hle, ih h]

/-! ### The operations -/

theorem exec_fieldDecimalDigit (d : Nibble) (s : State) :
    exec (.fieldDecimalDigit d) s = .next (finish .bytes (digitByte d) s) := rfl

theorem exec_bodyLineNumber (a b c : Nibble) (s : State) :
    exec (.bodyLineNumber a b c) s =
      .next (finish (fun ds => .bytes (prefixBytes rowLineNumber ++ ds)) (digitBytes [a, b, c]) s) := rfl

/-! ### The statements -/

/-- Settles O51: both buffers and `OUT` are empty. -/
theorem resetIsQuiescent : Obligations.ResetIsQuiescent :=
  ⟨rfl, rfl, rfl, rfl, rfl, ⟨rfl, rfl, fun _ => rfl⟩, bufferOk_nil _, bufferOk_nil _, by simp [State.reset]⟩

/-- Settles O59: the decimal layouts by `FLD.DEC` of one digit, the nibble layouts by `VDV.ENC`. -/
theorem wireLayoutsAnswerTheirBytes : Obligations.WireLayoutsAnswerTheirBytes := by
  intro s
  simp only [← nibbleChar_eq_append]
  refine ⟨fun _ => rfl, fun d hd => ?digit, fun d hd => ?digitAbove, fun _ => rfl, fun a b c ha hb hc => ?line,
    fun a b c d hfind => ?lineAbove, fun _ _ => rfl, fun _ => rfl, fun _ => rfl, fun _ => rfl, rfl, fun _ => rfl⟩
  case digit => rw [exec_fieldDecimalDigit, digitByte_ok hd, ← nibbleChar_eq_append]; rfl
  case digitAbove => rw [exec_fieldDecimalDigit, digitByte_overflow hd]; rfl
  case line =>
    have hdigits : ∀ d ∈ [a, b, c], d ≤ 9 :=
      List.forall_mem_cons.mpr ⟨ha, List.forall_mem_cons.mpr ⟨hb, List.forall_mem_singleton.mpr hc⟩⟩
    rw [exec_bodyLineNumber, digitBytes_ok hdigits]
    simp only [← nibbleChar_eq_append]
    rfl
  case lineAbove => rw [exec_bodyLineNumber, digitBytes_overflow hfind]; rfl

end Sys2Proof.Machine
end
